-- ==== Sys2Proof/Word.lean ====
section
/-! DEFINITION. The word types of CIDR-CORE: 128-bit values (00_scope.md R7) and 32-bit command and
status words (30_encoding.md R70; 20_memory.md R57). -/

namespace Sys2Proof

/-- A 128-bit value: an address, mask, prefix, size count, cursor value or lane image (R7, R20). -/
abbrev Word := BitVec 128

/-- A 32-bit command word (R70). -/
abbrev Cmd := BitVec 32

end Sys2Proof
end

