-- ==== Sys2Proof/Port.lean ====
section
/-! DEFINITION. The host port as data: the operations a host performs (20_memory.md R51, R52, R54) and what they
return to it (R66). -/

namespace Sys2Proof

/-- One port operation. Each takes effect whole, between two commands (R57). -/
inductive PortOp where
  /-- `PortWrite(i, v)` (R51). -/
  | write (i : Fin 8) (v : Word)
  /-- `PortRead(i)` (R52). -/
  | read (i : Fin 8)
  /-- `PortReadStatus()` (R54). -/
  | readStatus
  /-- `PortReadFcause()` (R54). -/
  | readFcause
  /-- `PortReadFcmd()` (R54). -/
  | readFcmd
  /-- `PortCmd(w)` (R54). -/
  | cmd (w : Cmd)
  /-- `Reset()` (70_reset_and_hazards.md R230). -/
  | reset
  deriving DecidableEq, Repr

/-- What a read operation returned (R52, R54). -/
inductive PortReply where
  /-- `PortRead` of a written register: its value. -/
  | value (v : Word)
  /-- `PortRead` of an unwritten register: "the read returns no value". -/
  | noValue
  /-- `PortReadStatus`. -/
  | status (w : BitVec 32)
  /-- `PortReadFcause`. -/
  | fcause (w : BitVec 32)
  /-- `PortReadFcmd`. -/
  | fcmd (w : BitVec 32)
  deriving DecidableEq, Repr

/-- One beat on the integrating platform's bus, as the host drives it: what a `HOST_BUS_MAPPING` gathers into
port operations (R55, R58). The spec fixes no width, so each is a number. -/
structure BusBeat where
  write : Bool
  addr : Nat
  data : Nat
  deriving DecidableEq, Repr

end Sys2Proof
end

