-- ==== Sys2Proof/Config.lean ====
section
/-! DEFINITION. The parameters of CIDR-CORE (00_scope.md R8) and the model's free values. -/

namespace Sys2Proof.Config

/-- `MAXLEN`, the largest legal prefix length, equal to `ADDR_W` (R7, R8). -/
def maxLen : Nat := 128

/-- FREE VALUE (log entry 5, DESIGN CHOICE). The prefix length that `len` answers for a mask that is not
contiguous: 43_cidr_block.md R144 gives `len` for a valid block register only, whose mask is contiguous
(10_state.md R24), and states nothing else. It has no body, so a claim holds whatever it is. -/
opaque unstatedLength : Word → Fin 129

/-- PARAMETER `HOST_BUS_MAPPING`, OPEN (20_memory.md R55; log entry 10): how the integrating platform gathers the
beats on its bus into port operations (R58). It has no body, so a claim holds whatever it is. -/
opaque hostBusMapping : List BusBeat → List PortOp

end Sys2Proof.Config
end

