-- ==== Sys2Proof/Machine/Bits.lean ====
section
/-! DEFINITION. Bit slices (00_scope.md R9), the one way the model takes a field out of a word. -/

namespace Sys2Proof.Machine

/-- `v[hi:lo]`, "the value of bits hi down to lo, of width hi-lo+1" (R9), as the natural number it is (R10). -/
def slice {n : Nat} (v : BitVec n) (hi lo : Nat) : Nat :=
  v.toNat / 2 ^ lo % 2 ^ (hi - lo + 1)

/-- An index read from a field of a command word, in the register file of `n` registers (R72). -/
def fieldIndex (n : Nat) (h : 0 < n) (k : Nat) : Fin n :=
  ⟨k % n, Nat.mod_lt _ h⟩

end Sys2Proof.Machine
end

