-- ==== Sys2Proof/Syntax.lean ====
section
/-! DEFINITION. The commands of CIDR-CORE, one constructor per row of the opcode map (30_encoding.md R74),
each with its operands in the order of the assembler (R76, R77). -/

namespace Sys2Proof

/-- One command. `rd`, `rs1`, `rs2` name value registers, `ba`, `bb` block registers and `it` an iterator
register (R35, R71); every encodable index names a register, so an index is a `Fin`. `imm8` is the
immediate prefix length, a count from 0 to 255 (R72, R77), whose bound is checked by `Instr.wellFormed`. -/
inductive Instr where
  | mkmask (rd : Fin 8) (imm8 : Nat)
  | mkmaskr (rd rs1 : Fin 8)
  | masklen (rd rs1 : Fin 8)
  | oct2u (rd rs1 : Fin 8)
  | u2oct (rd rs1 : Fin 8)
  | grp2u (rd rs1 : Fin 8)
  | u2grp (rd rs1 : Fin 8)
  | cidrb (ba : Fin 4) (rs1 : Fin 8) (imm8 : Nat)
  | cidrbr (ba : Fin 4) (rs1 rs2 : Fin 8)
  | cidrm (ba : Fin 4) (rs1 rs2 : Fin 8)
  | bpfx (rd : Fin 8) (ba : Fin 4)
  | bmask (rd : Fin 8) (ba : Fin 4)
  | blen (rd : Fin 8) (ba : Fin 4)
  | bfirst (rd : Fin 8) (ba : Fin 4)
  | blast (rd : Fin 8) (ba : Fin 4)
  | bsize (rd : Fin 8) (ba : Fin 4)
  | bcmp (ba bb : Fin 4)
  | bcont (ba : Fin 4) (rs1 : Fin 8)
  | itinit (it : Fin 2) (ba : Fin 4)
  | itnext (rd : Fin 8) (it : Fin 2)
  | itlast (rd : Fin 8) (it : Fin 2)
  deriving DecidableEq, Repr

end Sys2Proof
end

