-- ==== Sys2Proof/WellFormed.lean ====
section
/-! DEFINITION. Which commands a command word can hold (30_encoding.md R71, R72, R77). -/

namespace Sys2Proof

/-- The immediate fits the 8-bit field `imm8`: "a number from 0 to 255" (R77). The register indices need
no check: R35 says that every encodable index names an existing register, and their types say so. -/
def Instr.wellFormed : Instr → Bool
  | .mkmask _ imm8 => decide (imm8 ≤ 255)
  | .mkmaskr _ _ => true
  | .masklen _ _ => true
  | .oct2u _ _ => true
  | .u2oct _ _ => true
  | .grp2u _ _ => true
  | .u2grp _ _ => true
  | .cidrb _ _ imm8 => decide (imm8 ≤ 255)
  | .cidrbr _ _ _ => true
  | .cidrm _ _ _ => true
  | .bpfx _ _ => true
  | .bmask _ _ => true
  | .blen _ _ => true
  | .bfirst _ _ => true
  | .blast _ _ => true
  | .bsize _ _ => true
  | .bcmp _ _ => true
  | .bcont _ _ => true
  | .itinit _ _ => true
  | .itnext _ _ => true
  | .itlast _ _ => true

end Sys2Proof
end

