-- ==== Sys2Proof/Decode.lean ====
section
/-! DEFINITION. The command decoder (30_encoding.md R71 to R76, R79), the encoder written from the same
tables (95_test_vectors.md, the formula before section 1), and the assembler's spelling of a command (R77). -/

namespace Sys2Proof

open Sys2Proof.Machine

/-- Why a word is no command: a reserved opcode (R75) or a nonzero bit in a field the format does not use (R73). -/
inductive DecodeError where
  /-- `ILLEGAL_OPCODE`: `w[31:26]` is a reserved opcode. -/
  | illegalOpcode
  /-- `RESERVED_FIELD`: the opcode is assigned, and a field that must be zero is not. -/
  | reservedField
  deriving DecidableEq, Repr

/-- The nine formats of R76. -/
inductive Format where
  | ri | rr | bri | brr | rb | bb | br | ib | rt
  deriving DecidableEq, Repr

/-- The must-be-zero mask of a format, the opcode's bits included: the column of R76. -/
def Format.mask : Format → Cmd
  | .ri => 0xfc7fff00#32
  | .rr => 0xfc0fffff#32
  | .bri => 0xff8e7f00#32
  | .brr => 0xff807fff#32
  | .rb => 0xfc7e7fff#32
  | .bb => 0xfffe1fff#32
  | .br => 0xff8e7fff#32
  | .ib => 0xfffe6fff#32
  | .rt => 0xfc7fefff#32

/-- `op` of R71. -/
def opField (w : Cmd) : Nat := slice w 31 26
/-- `rd` of R71. -/
def rdField (w : Cmd) : Fin 8 := fieldIndex 8 (by decide) (slice w 25 23)
/-- `rs1` of R71. -/
def rs1Field (w : Cmd) : Fin 8 := fieldIndex 8 (by decide) (slice w 22 20)
/-- `rs2` of R71. -/
def rs2Field (w : Cmd) : Fin 8 := fieldIndex 8 (by decide) (slice w 19 17)
/-- `ba` of R71. -/
def baField (w : Cmd) : Fin 4 := fieldIndex 4 (by decide) (slice w 16 15)
/-- `bb` of R71. -/
def bbField (w : Cmd) : Fin 4 := fieldIndex 4 (by decide) (slice w 14 13)
/-- `it` of R71. -/
def itField (w : Cmd) : Fin 2 := fieldIndex 2 (by decide) (slice w 12 12)
/-- `imm8` of R71 and R72: no sign extension, scaling or shift. -/
def imm8Field (w : Cmd) : Nat := slice w 7 0

/-- The opcode map of R74: the format of the word's opcode and the command its fields spell; `none` for
the reserved opcodes of R75. -/
def opcodeRow (w : Cmd) : Option (Format × Instr) :=
  match opField w with
  | 0x01 => some (.ri, .mkmask (rdField w) (imm8Field w))
  | 0x02 => some (.rr, .mkmaskr (rdField w) (rs1Field w))
  | 0x03 => some (.rr, .masklen (rdField w) (rs1Field w))
  | 0x08 => some (.rr, .oct2u (rdField w) (rs1Field w))
  | 0x09 => some (.rr, .u2oct (rdField w) (rs1Field w))
  | 0x0a => some (.rr, .grp2u (rdField w) (rs1Field w))
  | 0x0b => some (.rr, .u2grp (rdField w) (rs1Field w))
  | 0x10 => some (.bri, .cidrb (baField w) (rs1Field w) (imm8Field w))
  | 0x11 => some (.brr, .cidrbr (baField w) (rs1Field w) (rs2Field w))
  | 0x12 => some (.brr, .cidrm (baField w) (rs1Field w) (rs2Field w))
  | 0x14 => some (.rb, .bpfx (rdField w) (baField w))
  | 0x15 => some (.rb, .bmask (rdField w) (baField w))
  | 0x16 => some (.rb, .blen (rdField w) (baField w))
  | 0x17 => some (.rb, .bfirst (rdField w) (baField w))
  | 0x18 => some (.rb, .blast (rdField w) (baField w))
  | 0x19 => some (.rb, .bsize (rdField w) (baField w))
  | 0x20 => some (.bb, .bcmp (baField w) (bbField w))
  | 0x21 => some (.br, .bcont (baField w) (rs1Field w))
  | 0x28 => some (.ib, .itinit (itField w) (baField w))
  | 0x29 => some (.rt, .itnext (rdField w) (itField w))
  | 0x2a => some (.rt, .itlast (rdField w) (itField w))
  | _ => none

/-- R79: the opcode first, then `(w & mask) = match` with `match = op << 26`. Total on the 2^32 words. -/
def decode (w : Cmd) : Except DecodeError Instr :=
  match opcodeRow w with
  | none => .error .illegalOpcode
  | some (f, i) =>
    if w &&& f.mask = BitVec.ofNat 32 (opField w) <<< 26 then .ok i else .error .reservedField

/-- `w = op<<26 | rd<<23 | rs1<<20 | rs2<<17 | ba<<15 | bb<<13 | it<<12 | imm8` (95_test_vectors.md, from R71).
The fields do not overlap, so the OR is a sum. -/
def packFields (op rd rs1 rs2 ba bb it imm8 : Nat) : Cmd :=
  BitVec.ofNat 32 (op * 2 ^ 26 + rd * 2 ^ 23 + rs1 * 2 ^ 20 + rs2 * 2 ^ 17 + ba * 2 ^ 15 + bb * 2 ^ 13 + it * 2 ^ 12 + imm8)

/-- The command word of a command (R71, R74): the unused fields are zero (R73). -/
def encode : Instr → Cmd
  | .mkmask rd imm8 => packFields 0x01 rd 0 0 0 0 0 imm8
  | .mkmaskr rd rs1 => packFields 0x02 rd rs1 0 0 0 0 0
  | .masklen rd rs1 => packFields 0x03 rd rs1 0 0 0 0 0
  | .oct2u rd rs1 => packFields 0x08 rd rs1 0 0 0 0 0
  | .u2oct rd rs1 => packFields 0x09 rd rs1 0 0 0 0 0
  | .grp2u rd rs1 => packFields 0x0a rd rs1 0 0 0 0 0
  | .u2grp rd rs1 => packFields 0x0b rd rs1 0 0 0 0 0
  | .cidrb ba rs1 imm8 => packFields 0x10 0 rs1 0 ba 0 0 imm8
  | .cidrbr ba rs1 rs2 => packFields 0x11 0 rs1 rs2 ba 0 0 0
  | .cidrm ba rs1 rs2 => packFields 0x12 0 rs1 rs2 ba 0 0 0
  | .bpfx rd ba => packFields 0x14 rd 0 0 ba 0 0 0
  | .bmask rd ba => packFields 0x15 rd 0 0 ba 0 0 0
  | .blen rd ba => packFields 0x16 rd 0 0 ba 0 0 0
  | .bfirst rd ba => packFields 0x17 rd 0 0 ba 0 0 0
  | .blast rd ba => packFields 0x18 rd 0 0 ba 0 0 0
  | .bsize rd ba => packFields 0x19 rd 0 0 ba 0 0 0
  | .bcmp ba bb => packFields 0x20 0 0 0 ba bb 0 0
  | .bcont ba rs1 => packFields 0x21 0 rs1 0 ba 0 0 0
  | .itinit it ba => packFields 0x28 0 0 0 ba 0 it 0
  | .itnext rd it => packFields 0x29 rd 0 0 0 0 it 0
  | .itlast rd it => packFields 0x2a rd 0 0 0 0 it 0

/-- The command that the decoder reads from the `nbits`-bit number `w`, bit 0 the least significant, every bit
above `nbits` zero. Every command is ONE 32-bit word, which the host hands over whole (R64, R70), so no byte
order enters; more than 32 bits are no command (log entry 16). -/
def decodeTableWord (nbits w : Nat) : Option Instr :=
  if nbits ≤ 32 then
    match decode (BitVec.ofNat 32 (w % 2 ^ nbits)) with
    | .ok i => some i
    | .error _ => none
  else none

/-- The assembler's spelling of a numbered register: its letter, then its number in decimal (R77). -/
def regText (letter : String) (k : Nat) : String := letter ++ toString k

/-- The assembler line of a command: the mnemonic, then its operands in the order of R76, with commas (R77). -/
def asmText : Instr → String
  | .mkmask rd imm8 => "MKMASK " ++ regText "a" rd ++ ", " ++ toString imm8
  | .mkmaskr rd rs1 => "MKMASKR " ++ regText "a" rd ++ ", " ++ regText "a" rs1
  | .masklen rd rs1 => "MASKLEN " ++ regText "a" rd ++ ", " ++ regText "a" rs1
  | .oct2u rd rs1 => "OCT2U " ++ regText "a" rd ++ ", " ++ regText "a" rs1
  | .u2oct rd rs1 => "U2OCT " ++ regText "a" rd ++ ", " ++ regText "a" rs1
  | .grp2u rd rs1 => "GRP2U " ++ regText "a" rd ++ ", " ++ regText "a" rs1
  | .u2grp rd rs1 => "U2GRP " ++ regText "a" rd ++ ", " ++ regText "a" rs1
  | .cidrb ba rs1 imm8 => "CIDRB " ++ regText "b" ba ++ ", " ++ regText "a" rs1 ++ ", " ++ toString imm8
  | .cidrbr ba rs1 rs2 => "CIDRBR " ++ regText "b" ba ++ ", " ++ regText "a" rs1 ++ ", " ++ regText "a" rs2
  | .cidrm ba rs1 rs2 => "CIDRM " ++ regText "b" ba ++ ", " ++ regText "a" rs1 ++ ", " ++ regText "a" rs2
  | .bpfx rd ba => "BPFX " ++ regText "a" rd ++ ", " ++ regText "b" ba
  | .bmask rd ba => "BMASK " ++ regText "a" rd ++ ", " ++ regText "b" ba
  | .blen rd ba => "BLEN " ++ regText "a" rd ++ ", " ++ regText "b" ba
  | .bfirst rd ba => "BFIRST " ++ regText "a" rd ++ ", " ++ regText "b" ba
  | .blast rd ba => "BLAST " ++ regText "a" rd ++ ", " ++ regText "b" ba
  | .bsize rd ba => "BSIZE " ++ regText "a" rd ++ ", " ++ regText "b" ba
  | .bcmp ba bb => "BCMP " ++ regText "b" ba ++ ", " ++ regText "b" bb
  | .bcont ba rs1 => "BCONT " ++ regText "b" ba ++ ", " ++ regText "a" rs1
  | .itinit it ba => "ITINIT " ++ regText "i" it ++ ", " ++ regText "b" ba
  | .itnext rd it => "ITNEXT " ++ regText "a" rd ++ ", " ++ regText "i" it
  | .itlast rd it => "ITLAST " ++ regText "a" rd ++ ", " ++ regText "i" it

end Sys2Proof
end

