-- ==== Sys2Proof/Machine/State.lean ====
section
/-! DEFINITION. The state of CIDR-CORE (10_state.md), the reasons a step can stop, and the state after reset (R37). -/

namespace Sys2Proof.Machine

/-- `STATUS.ERR` (10_state.md R30; 60_exceptions.md R201). -/
inductive ErrorKind where
  /-- 0: the command succeeded. -/
  | none
  /-- 1: `IncorrectBitsRange`. -/
  | incorrectBitsRange
  /-- 2: `IncorrectMask`. -/
  | incorrectMask
  /-- 3: reserved for `IncorrectCidrString`, never produced (R203). -/
  | incorrectCidrString
  deriving DecidableEq, Repr

/-- `STATUS.CMP` (R30). The reserved code 3 is "never produced" and has no constructor (log entry 17). -/
inductive CmpCode where
  | equal
  | less
  | greater
  deriving DecidableEq, Repr

/-- The fault codes of 60_exceptions.md R207; code 0 (no fault) and the reserved codes 8 to 15 are raised by nothing. -/
inductive FaultCode where
  | illegalOpcode
  | reservedField
  | unwrittenRead
  | invalidBlock
  | invalidIter
  | contract
  | portUnwrittenRead
  deriving DecidableEq, Repr

/-- `STATUS`, field by field (R30). Bits 31:8 have no storage: they read as zero (`statusWord`). -/
structure Status where
  err : ErrorKind
  v : Bool
  ovf : Bool
  cmp : CmpCode
  c : Bool
  fault : Bool
  deriving DecidableEq, Repr

/-- An overflow-flag pair (00_scope.md R11). -/
structure Pair where
  v : Word
  o : Bool
  deriving DecidableEq, Repr

/-- The contents of a valid block register (R24). -/
structure Block where
  pfx : Word
  mask : Word
  deriving DecidableEq, Repr

/-- The contents of a valid iterator register (R27); `limit` is the spec's `end`. -/
structure Iter where
  origin : Word
  cur : Pair
  limit : Pair
  deriving DecidableEq, Repr

/-- The machine. An unwritten value register "holds no value" (R22), and the fields of an invalid block or
iterator register "can never be observed" (R26, R29): each of these registers is `none` then, so that `written`
and `valid` are the spec's own bits, read as `isSome` (log entry 4).
`port` and `replies` are the host's side of the port: the operations it has issued, oldest first (log entry 1),
and what its reads returned, oldest first (log entry 2). -/
structure State where
  /-- `A0`..`A7` (R20, R22). -/
  a : Vector (Option Word) 8
  /-- `B0`..`B3` (R24). -/
  b : Vector (Option Block) 4
  /-- `I0`..`I1` (R27). -/
  it : Vector (Option Iter) 2
  /-- `STATUS` (R30). -/
  status : Status
  /-- `FCAUSE` (R32). -/
  fcause : BitVec 32
  /-- `FCMD` (R33). -/
  fcmd : BitVec 32
  /-- The port operations issued and not yet in effect (20_memory.md R61). -/
  port : List PortOp
  /-- What the reads of this run returned (70_reset_and_hazards.md R236). -/
  replies : List PortReply
  deriving DecidableEq, Repr

/-- Why the machine stops. It has no constructor: every fault of this hardware is recorded in `STATUS`, `FCAUSE`
and `FCMD` and the machine goes on (60_exceptions.md R205, R206, R209), so a fault is a next state and nothing
raises a stop here. Safe: no behaviour is lost. -/
inductive Fault where
  deriving DecidableEq, Repr

/-- Why the model gives no meaning. -/
inductive Refusal where
  /-- Raised by `exec`'s arm of an instruction that has no meaning yet. Safe: the model stops. No arm raises it now. -/
  | notModelled (mnemonic : String)
  /-- Raised by `ITLAST` where `end` is `(0, false)`: `dec((0, false))` is "undefined -- never applied" (45_iterator.md
  R181), and 93_implementation_defined.md item 5 treats it as `refuse`. No run reaches it, since
  `val(end) >= 1` (10_state.md R28). Safe: the model stops (log entry 6). -/
  | decOfZero
  deriving DecidableEq, Repr

/-- `STATUS` after reset: 0x00000000 (R37). -/
def Status.reset : Status :=
  { err := .none, v := false, ovf := false, cmp := .equal, c := false, fault := false }

/-- The machine right after reset (R37): every value register unwritten, every block and iterator register
invalid, `STATUS`, `FCAUSE` and `FCMD` zero. The host has issued nothing and read nothing (log entries 1 and 2). -/
def State.reset : State :=
  { a := Vector.replicate 8 .none
    b := Vector.replicate 4 .none
    it := Vector.replicate 2 .none
    status := Status.reset
    fcause := 0
    fcmd := 0
    port := []
    replies := [] }

end Sys2Proof.Machine
end

