-- ==== Sys2Proof/Machine/Flags.lean ====
section
/-! DEFINITION. Every STATUS field a command writes (10_state.md R30, R31), and STATUS as the host reads it. -/

namespace Sys2Proof.Machine

/-- `STATUS.ERR <- e`, done by every command that completes (R31). -/
def State.setErr (s : State) (e : ErrorKind) : State :=
  { s with status := { s.status with err := e } }

/-- `STATUS.V <- x`: `MASKLEN`, `ITNEXT`, `ITLAST` (R30). -/
def State.setV (s : State) (x : Bool) : State :=
  { s with status := { s.status with v := x } }

/-- `STATUS.OVF <- x`: `BSIZE` (R30). -/
def State.setOvf (s : State) (x : Bool) : State :=
  { s with status := { s.status with ovf := x } }

/-- `STATUS.CMP <- x`: `BCMP` (R30). -/
def State.setCmp (s : State) (x : CmpCode) : State :=
  { s with status := { s.status with cmp := x } }

/-- `STATUS.C <- x`: `BCONT` (R30). -/
def State.setC (s : State) (x : Bool) : State :=
  { s with status := { s.status with c := x } }

/-- The error codes of 60_exceptions.md R201. -/
def errCode : ErrorKind → BitVec 2
  | .none => 0
  | .incorrectBitsRange => 1
  | .incorrectMask => 2
  | .incorrectCidrString => 3

/-- The comparison codes of R30: "0 equal; 1 less; 2 greater". -/
def cmpCode : CmpCode → BitVec 2
  | .equal => 0
  | .less => 1
  | .greater => 2

/-- The 32-bit STATUS register (R30): bits 31:8 zero, then FAULT, C, CMP, OVF, V, ERR down to bit 0. -/
def statusWord (t : Status) : BitVec 32 :=
  0#24 ++ BitVec.ofBool t.fault ++ BitVec.ofBool t.c ++ cmpCode t.cmp ++ BitVec.ofBool t.ovf ++ BitVec.ofBool t.v ++ errCode t.err

/-- `STATUS.CMP` for an order: "(r = EQ) ? 0 : (r = LT) ? 1 : 2" (44_compare_contain.md R171). -/
def cmpOfOrdering : Ordering → CmpCode
  | .eq => .equal
  | .lt => .less
  | .gt => .greater

end Sys2Proof.Machine
end

