-- ==== Sys2Proof/Machine/Ops.lean ====
section
/-! DEFINITION. The named operations on the state: the register files (00_scope.md R12), fault entry
(60_exceptions.md R206), and how one command ends (R208). -/

namespace Sys2Proof.Machine

/-- `A[i] <- v`: all 128 bits, and the register is written (10_state.md R21). -/
def State.writeA (s : State) (i : Fin 8) (v : Word) : State :=
  { s with a := s.a.set i (some v) }

/-- `B[i] <- {prefix, mask}`: the whole register at once, and `valid <- 1` (10_state.md R25). -/
def State.writeB (s : State) (i : Fin 4) (x : Block) : State :=
  { s with b := s.b.set i (some x) }

/-- `I[j] <- x`, and `valid <- 1` (10_state.md R27, R28). -/
def State.writeI (s : State) (j : Fin 2) (x : Iter) : State :=
  { s with it := s.it.set j (some x) }

/-- The fault codes of 60_exceptions.md R207, in 32 bits. -/
def faultCode : FaultCode → BitVec 32
  | .illegalOpcode => 1
  | .reservedField => 2
  | .unwrittenRead => 3
  | .invalidBlock => 4
  | .invalidIter => 5
  | .contract => 6
  | .portUnwrittenRead => 7

/-- TAKING A FAULT (60_exceptions.md R206): while `STATUS.FAULT = 0` it sets `STATUS.FAULT`, `FCAUSE` and `FCMD`
and nothing else; in the faulted state it records nothing, since the first fault is kept (R210; 20_memory.md R52).
There is no return from a fault: only reset leaves the faulted state (R209, R210). -/
def State.takeFault (s : State) (code : FaultCode) (w : Cmd) : State :=
  if s.status.fault then s
  else { s with status := { s.status with fault := true }, fcause := faultCode code, fcmd := w }

/-- What a command's checks and pseudocode end in. -/
inductive Effect where
  /-- The command completes in this state. -/
  | done (s : State)
  /-- `raise Fault(code)`: nothing else the command would write is written (00_scope.md R12). -/
  | raise (code : FaultCode)
  /-- The spec gives the case no meaning and says to refuse it. -/
  | refuse (r : Refusal)
  deriving DecidableEq, Repr

/-- One decoded command `i` (60_exceptions.md R208), where `e` is what its checks and pseudocode end in: ignored while
faulted (R209), else completed, or its fault taken with the command word in `FCMD` (R206; log entry 8). -/
def command (i : Instr) (s : State) (e : Effect) : Host.Outcome State Fault Refusal :=
  if s.status.fault then .next s
  else
    match e with
    | .done s' => .next s'
    | .raise code => .next (s.takeFault code (encode i))
    | .refuse r => .refused r

end Sys2Proof.Machine
end

