-- ==== Sys2Proof/Machine/Operands.lean ====
section
/-! DEFINITION. The operand forms: a source register is checked and read before the command's pseudocode runs
(60_exceptions.md R208; 10_state.md R23), and the shapes of command that several opcodes share (30_encoding.md R76). -/

namespace Sys2Proof.Machine

/-- `A[r]` as a source: `UNWRITTEN_READ` if unwritten (10_state.md R22). -/
def withA (s : State) (r : Fin 8) (k : Word → Effect) : Effect :=
  match s.a[r] with
  | none => .raise .unwrittenRead
  | some v => k v

/-- `B[r]` as a source: `INVALID_BLOCK` if `valid = 0` (10_state.md R26). -/
def withB (s : State) (r : Fin 4) (k : Block → Effect) : Effect :=
  match s.b[r] with
  | none => .raise .invalidBlock
  | some x => k x

/-- `I[j]` as a source: `INVALID_ITER` if `valid = 0` (10_state.md R29). -/
def withI (s : State) (j : Fin 2) (k : Iter → Effect) : Effect :=
  match s.it[j] with
  | none => .raise .invalidIter
  | some x => k x

/-- Format RR with a total function: `A[rd] <- f(A[rs1]); STATUS.ERR <- 0`. -/
def unaryA (rd rs1 : Fin 8) (f : Word → Word) (s : State) : Effect :=
  withA s rs1 fun v => .done ((s.writeA rd (f v)).setErr .none)

/-- Format RB with a total function: `A[rd] <- f(B[ba]); STATUS.ERR <- 0`. -/
def accessorB (rd : Fin 8) (ba : Fin 4) (f : Block → Word) (s : State) : Effect :=
  withB s ba fun x => .done ((s.writeA rd (f x)).setErr .none)

end Sys2Proof.Machine
end

