-- ==== Sys2Proof/Machine/ByteOrder.lean ====
section
/-! DEFINITION. The 128-bit address byte-order converter (42_byteorder.md): OCT2U, U2OCT, GRP2U, U2GRP, and the
grouped forms and lane images that they convert. -/

namespace Sys2Proof.Machine

/-- `oct(V, i) = V[127 - 8i : 120 - 8i]`, octet 0 the most significant (R120). -/
def oct (v : Word) (i : Nat) : Nat := slice v (127 - 8 * i) (120 - 8 * i)

/-- `grp(V, j) = V[127 - 16j : 112 - 16j]`, group 0 the most significant (R121). -/
def grp (v : Word) (j : Nat) : Nat := slice v (127 - 16 * j) (112 - 16 * j)

/-- Byte lane k of a register: bits `[8k+7:8k]` (20_memory.md R53). -/
def byteLane (r : Word) (k : Nat) : Nat := slice r (8 * k + 7) (8 * k)

/-- Halfword lane j of a register: bits `[16j+15:16j]` (20_memory.md R53). -/
def halfLane (r : Word) (j : Nat) : Nat := slice r (16 * j + 15) (16 * j)

/-- `from_octets(G) = sum over i of G[i] * 2^(8 * (15 - i))` (R120). -/
def fromOctets (g : Vector (BitVec 8) 16) : Word :=
  BitVec.ofNat 128 ((List.finRange 16).map fun i => (g[i]).toNat * 2 ^ (8 * (15 - i.val))).sum

/-- `from_groups(H) = sum over j of H[j] * 2^(16 * (7 - j))` (R121). -/
def fromGroups (h : Vector (BitVec 16) 8) : Word :=
  BitVec.ofNat 128 ((List.finRange 8).map fun j => (h[j]).toNat * 2 ^ (16 * (7 - j.val))).sum

/-- The octet lane image: `R = sum over i of G[i] * 2^(8i)` (R122); it is also the family-native form (D14). -/
def octetLaneImage (g : Vector (BitVec 8) 16) : Word :=
  BitVec.ofNat 128 ((List.finRange 16).map fun i => (g[i]).toNat * 2 ^ (8 * i.val)).sum

/-- The group lane image: `R = sum over j of H[j] * 2^(16j)` (R122). -/
def groupLaneImage (h : Vector (BitVec 16) 8) : Word :=
  BitVec.ofNat 128 ((List.finRange 8).map fun j => (h[j]).toNat * 2 ^ (16 * j.val)).sum

/-- `bswap128(R) = sum over k in 0..15 of R[8k+7 : 8k] * 2^(8 * (15 - k))` (R123). -/
def bswap128 (r : Word) : Word :=
  BitVec.ofNat 128 ((List.range 16).map fun k => slice r (8 * k + 7) (8 * k) * 2 ^ (8 * (15 - k))).sum

/-- `hswap128(R) = sum over j in 0..7 of R[16j+15 : 16j] * 2^(16 * (7 - j))` (R123). -/
def hswap128 (r : Word) : Word :=
  BitVec.ofNat 128 ((List.range 8).map fun j => slice r (16 * j + 15) (16 * j) * 2 ^ (16 * (7 - j))).sum

/-- `OCT2U ad, as` (R124). -/
def execOct2u (rd rs1 : Fin 8) (s : State) : Host.Outcome State Fault Refusal :=
  command (.oct2u rd rs1) s (unaryA rd rs1 bswap128 s)

/-- `U2OCT ad, as` (R125): the same function on a canonical value. -/
def execU2oct (rd rs1 : Fin 8) (s : State) : Host.Outcome State Fault Refusal :=
  command (.u2oct rd rs1) s (unaryA rd rs1 bswap128 s)

/-- `GRP2U ad, as` (R126). -/
def execGrp2u (rd rs1 : Fin 8) (s : State) : Host.Outcome State Fault Refusal :=
  command (.grp2u rd rs1) s (unaryA rd rs1 hswap128 s)

/-- `U2GRP ad, as` (R127): the same function on a canonical value. -/
def execU2grp (rd rs1 : Fin 8) (s : State) : Host.Outcome State Fault Refusal :=
  command (.u2grp rd rs1) s (unaryA rd rs1 hswap128 s)

end Sys2Proof.Machine
end

