-- ==== Sys2Proof/Machine/Mask.lean ====
section
/-! DEFINITION. The mask converter and the mask validator (41_mask.md): MKMASK, MKMASKR, MASKLEN. -/

namespace Sys2Proof.Machine

/-- `mask_from_bits(b) = (2^b - 1) * 2^(128 - b)`, "exact; the result is < 2^128" (R100). Not defined for
`b > 128`: every command that calls it checks the range first. -/
def maskFromBits (b : Nat) : Word :=
  BitVec.ofNat 128 ((2 ^ b - 1) * 2 ^ (Config.maxLen - b))

/-- The scan of R101: while `n < 128` and `m[127 - n] = 1`, `n <- n + 1`, with `fuel` rounds left. -/
def countLeadingOnes (m : Word) : (fuel : Nat) → (n : Nat) → Nat
  | 0, n => n
  | fuel + 1, n => if m.getLsbD (127 - n) then countLeadingOnes m fuel (n + 1) else n

/-- `bits_from_mask(m)` (R101): `Some(n)` for a run of `n` leading 1-bits followed by 0-bits only, else `None`. -/
def bitsFromMask (m : Word) : Option Nat :=
  let n := countLeadingOnes m 128 0
  if n = 128 then some 128
  else if n = 127 ∨ slice m (126 - n) 0 = 0 then some n
  else none

/-- R102 and R103 past the operand checks: `CONTRACT` above 128, else the mask. -/
def makeMask (rd : Fin 8) (b : Nat) (s : State) : Effect :=
  if b > Config.maxLen then .raise .contract
  else .done ((s.writeA rd (maskFromBits b)).setErr .none)

/-- `MKMASK ad, n` (R102). -/
def execMkmask (rd : Fin 8) (imm8 : Nat) (s : State) : Host.Outcome State Fault Refusal :=
  command (.mkmask rd imm8) s (makeMask rd imm8 s)

/-- `MKMASKR ad, as` (R103): the prefix length is the whole 128-bit value of `A[rs1]`. -/
def execMkmaskr (rd rs1 : Fin 8) (s : State) : Host.Outcome State Fault Refusal :=
  command (.mkmaskr rd rs1) s (withA s rs1 fun v => makeMask rd v.toNat s)

/-- `MASKLEN ad, as` (R104): an invalid mask is `V = 0` with `A[rd]` not written, and no error (60_exceptions.md R204). -/
def execMasklen (rd rs1 : Fin 8) (s : State) : Host.Outcome State Fault Refusal :=
  command (.masklen rd rs1) s (withA s rs1 fun m =>
    match bitsFromMask m with
    | some n => .done (((s.writeA rd (BitVec.ofNat 128 n)).setV true).setErr .none)
    | none => .done ((s.setV false).setErr .none))

end Sys2Proof.Machine
end

