-- ==== Sys2Proof/Machine/Cidr.lean ====
section
/-! DEFINITION. CIDR block construction, accessors and size (43_cidr_block.md): CIDRB, CIDRBR, CIDRM, BPFX, BMASK,
BLEN, BFIRST, BLAST, BSIZE. -/

namespace Sys2Proof.Machine

/-- `make_block(p, m)`: host bits are cleared, never rejected (R140). -/
def makeBlock (p m : Word) : Block := { pfx := p &&& m, mask := m }

/-- `from_prefix_and_bits` (R141, R142): `IncorrectBitsRange` above 128, the register kept. -/
def buildFromBits (ba : Fin 4) (p : Word) (b : Nat) (s : State) : Effect :=
  if b > Config.maxLen then .done (s.setErr .incorrectBitsRange)
  else .done ((s.writeB ba (makeBlock p (maskFromBits b))).setErr .none)

/-- `CIDRB bd, as, n` (R141). -/
def execCidrb (ba : Fin 4) (rs1 : Fin 8) (imm8 : Nat) (s : State) : Host.Outcome State Fault Refusal :=
  command (.cidrb ba rs1 imm8) s (withA s rs1 fun p => buildFromBits ba p imm8 s)

/-- `CIDRBR bd, as, at` (R142): the length is the whole 128-bit value of `A[rs2]`. -/
def execCidrbr (ba : Fin 4) (rs1 rs2 : Fin 8) (s : State) : Host.Outcome State Fault Refusal :=
  command (.cidrbr ba rs1 rs2) s (withA s rs1 fun p => withA s rs2 fun b => buildFromBits ba p b.toNat s)

/-- `CIDRM bd, as, at` (R143): `IncorrectMask` if the mask is not contiguous, the register kept. -/
def execCidrm (ba : Fin 4) (rs1 rs2 : Fin 8) (s : State) : Host.Outcome State Fault Refusal :=
  command (.cidrm ba rs1 rs2) s (withA s rs1 fun p => withA s rs2 fun m =>
    match bitsFromMask m with
    | none => .done (s.setErr .incorrectMask)
    | some _ => .done ((s.writeB ba (makeBlock p m)).setErr .none))

/-- `len(B)` (R144), computed from the mask at each use (10_state.md R38). A valid block's mask is contiguous
(10_state.md R24), so the free value is reached in no run (log entry 5). -/
def blockLen (x : Block) : Nat :=
  match bitsFromMask x.mask with
  | some n => n
  | none => (Config.unstatedLength x.mask).val

/-- The first address: the prefix (R148). -/
def blockFirst (x : Block) : Word := x.pfx

/-- The last address: `prefix | ~mask` (R149). -/
def blockLast (x : Block) : Word := x.pfx ||| ~~~x.mask

/-- `size(B)` (R150): the sentinel `(0, false)` for /128, `(0, true)` for /0, else `(2^(128 - L), false)`. -/
def blockSize (x : Block) : Pair :=
  let l := blockLen x
  if l = 128 then { v := 0, o := false }
  else if l = 0 then { v := 0, o := true }
  else { v := BitVec.ofNat 128 (2 ^ (128 - l)), o := false }

/-- `BPFX ad, bs` (R145). -/
def execBpfx (rd : Fin 8) (ba : Fin 4) (s : State) : Host.Outcome State Fault Refusal :=
  command (.bpfx rd ba) s (accessorB rd ba (fun x => x.pfx) s)

/-- `BMASK ad, bs` (R146). -/
def execBmask (rd : Fin 8) (ba : Fin 4) (s : State) : Host.Outcome State Fault Refusal :=
  command (.bmask rd ba) s (accessorB rd ba (fun x => x.mask) s)

/-- `BLEN ad, bs` (R147): `V` is not written. -/
def execBlen (rd : Fin 8) (ba : Fin 4) (s : State) : Host.Outcome State Fault Refusal :=
  command (.blen rd ba) s (accessorB rd ba (fun x => BitVec.ofNat 128 (blockLen x)) s)

/-- `BFIRST ad, bs` (R148). -/
def execBfirst (rd : Fin 8) (ba : Fin 4) (s : State) : Host.Outcome State Fault Refusal :=
  command (.bfirst rd ba) s (accessorB rd ba blockFirst s)

/-- `BLAST ad, bs` (R149). -/
def execBlast (rd : Fin 8) (ba : Fin 4) (s : State) : Host.Outcome State Fault Refusal :=
  command (.blast rd ba) s (accessorB rd ba blockLast s)

/-- `BSIZE ad, bs` (R151): the count to `A[rd]`, the overflow flag to `STATUS.OVF`. -/
def execBsize (rd : Fin 8) (ba : Fin 4) (s : State) : Host.Outcome State Fault Refusal :=
  command (.bsize rd ba) s (withB s ba fun x =>
    .done (((s.writeA rd (blockSize x).v).setOvf (blockSize x).o).setErr .none))

end Sys2Proof.Machine
end

