-- ==== Sys2Proof/Machine/Compare.lean ====
section
/-! DEFINITION. The block comparator and containment tester (44_compare_contain.md): BCMP, BCONT. -/

namespace Sys2Proof.Machine

/-- The loop of R170 over the groups `js`, in that order: the first group that differs decides. -/
def groupOrder (p q : Word) : List Nat → Ordering
  | [] => .eq
  | j :: js => if grp p j < grp q j then .lt else if grp p j > grp q j then .gt else groupOrder p q js

/-- `order(X, Y)` (R170): the groups, most significant first, then ascending prefix length. DESIGN CHOICE (log entry 18): a
corner case of R171 puts prefix 0x20010db8... /48 BEFORE prefix 0x20010000... /16, against R170, the pseudocode of R171 and
95_test_vectors.md 2.7, row 3, which put it after; the model follows these, so BCMP of that pair gives CMP = 2. -/
def blockOrder (x y : Block) : Ordering :=
  match groupOrder x.pfx y.pfx (List.range 8) with
  | .lt => .lt
  | .gt => .gt
  | .eq => if blockLen x < blockLen y then .lt else if blockLen x > blockLen y then .gt else .eq

/-- `contains(B, a)` exactly when `(a & B.mask) = B.prefix` (R172). -/
def blockContains (x : Block) (addr : Word) : Bool := addr &&& x.mask == x.pfx

/-- `BCMP bs, bt` (R171; its corner cases disagree on one pair, log entry 18): `B[ba]` is checked before `B[bb]`. -/
def execBcmp (ba bb : Fin 4) (s : State) : Host.Outcome State Fault Refusal :=
  command (.bcmp ba bb) s (withB s ba fun x => withB s bb fun y =>
    .done ((s.setCmp (cmpOfOrdering (blockOrder x y))).setErr .none))

/-- `BCONT bs, as` (R173): `A[rs1]` is checked before `B[ba]`. -/
def execBcont (ba : Fin 4) (rs1 : Fin 8) (s : State) : Host.Outcome State Fault Refusal :=
  command (.bcont ba rs1) s (withA s rs1 fun addr => withB s ba fun x =>
    .done ((s.setC (blockContains x addr)).setErr .none))

end Sys2Proof.Machine
end

