-- ==== Sys2Proof/Machine/Iterator.lean ====
section
/-! DEFINITION. The address iterator with overflow-flag arithmetic (45_iterator.md): ITINIT, ITNEXT, ITLAST. -/

namespace Sys2Proof.Machine

/-- `val(v, o) = v + (o ? 2^128 : 0)` (00_scope.md R11). -/
def Pair.val (p : Pair) : Nat := p.v.toNat + if p.o then 2 ^ 128 else 0

/-- `inc(c)` (R180; `2^128 - 1` is the all-one value), its formula on every pair (log entry 7). -/
def Pair.inc (p : Pair) : Pair :=
  if p.v = BitVec.allOnes 128 then { v := 0, o := true } else { v := p.v + 1, o := p.o }

/-- `dec(e)` (R181); `none` at `(0, false)`, where it is "undefined" (93_implementation_defined.md item 5). -/
def Pair.dec (p : Pair) : Option Pair :=
  if p.v = 0 then
    if p.o then some { v := BitVec.allOnes 128, o := false } else none
  else some { v := p.v - 1, o := p.o }

/-- `endpair(B)` (R182): the true address count, `(1, false)` for /128 and the size pair otherwise. -/
def endPair (x : Block) : Pair :=
  if blockLen x = 128 then { v := 1, o := false } else blockSize x

/-- `step(I)` (R184): the address `add128(origin, cur.v)` and the advanced cursor, or `none` for "exhausted". -/
def iterStep (x : Iter) : Option (Word × Pair) :=
  if x.cur = x.limit then none else some (x.origin + x.cur.v, x.cur.inc)

/-- "exactly one next() call" on iterator register `j`, which holds `x` (R185, R186): an element goes to `A[rd]`, the
cursor advances and `V <- 1`; an exhausted iterator changes `V` alone. -/
def deliverNext (rd : Fin 8) (j : Fin 2) (x : Iter) (s : State) : Effect :=
  match iterStep x with
  | some (addr, c) => .done ((((s.writeA rd addr).writeI j { x with cur := c }).setV true).setErr .none)
  | none => .done ((s.setV false).setErr .none)

/-- `ITINIT i, bs` (R183): copies, so a later construction does not change the iterator (10_state.md R27). -/
def execItinit (j : Fin 2) (ba : Fin 4) (s : State) : Host.Outcome State Fault Refusal :=
  command (.itinit j ba) s (withB s ba fun x =>
    .done ((s.writeI j { origin := x.pfx, cur := { v := 0, o := false }, limit := endPair x }).setErr .none))

/-- `ITNEXT ad, i` (R185). -/
def execItnext (rd : Fin 8) (j : Fin 2) (s : State) : Host.Outcome State Fault Refusal :=
  command (.itnext rd j) s (withI s j fun x => deliverNext rd j x s)

/-- `ITLAST ad, i` (R186): the cursor becomes `dec(end)` whatever it held, then exactly one next. -/
def execItlast (rd : Fin 8) (j : Fin 2) (s : State) : Host.Outcome State Fault Refusal :=
  command (.itlast rd j) s (withI s j fun x =>
    match x.limit.dec with
    | none => .refuse .decOfZero
    | some c => deliverNext rd j { x with cur := c } (s.writeI j { x with cur := c }))

end Sys2Proof.Machine
end

