-- ==== Sys2Proof/Machine/Dispatch.lean ====
section
/-! DEFINITION. One command: each constructor of `Instr` and its meaning (60_exceptions.md R208, past decoding). -/

namespace Sys2Proof.Machine

def exec (i : Instr) (s : State) : Host.Outcome State Fault Refusal :=
  match i with
  | .mkmask rd imm8 => Sys2Proof.Machine.execMkmask rd imm8 s
  | .mkmaskr rd rs1 => Sys2Proof.Machine.execMkmaskr rd rs1 s
  | .masklen rd rs1 => Sys2Proof.Machine.execMasklen rd rs1 s
  | .oct2u rd rs1 => Sys2Proof.Machine.execOct2u rd rs1 s
  | .u2oct rd rs1 => Sys2Proof.Machine.execU2oct rd rs1 s
  | .grp2u rd rs1 => Sys2Proof.Machine.execGrp2u rd rs1 s
  | .u2grp rd rs1 => Sys2Proof.Machine.execU2grp rd rs1 s
  | .cidrb ba rs1 imm8 => Sys2Proof.Machine.execCidrb ba rs1 imm8 s
  | .cidrbr ba rs1 rs2 => Sys2Proof.Machine.execCidrbr ba rs1 rs2 s
  | .cidrm ba rs1 rs2 => Sys2Proof.Machine.execCidrm ba rs1 rs2 s
  | .bpfx rd ba => Sys2Proof.Machine.execBpfx rd ba s
  | .bmask rd ba => Sys2Proof.Machine.execBmask rd ba s
  | .blen rd ba => Sys2Proof.Machine.execBlen rd ba s
  | .bfirst rd ba => Sys2Proof.Machine.execBfirst rd ba s
  | .blast rd ba => Sys2Proof.Machine.execBlast rd ba s
  | .bsize rd ba => Sys2Proof.Machine.execBsize rd ba s
  | .bcmp ba bb => Sys2Proof.Machine.execBcmp ba bb s
  | .bcont ba rs1 => Sys2Proof.Machine.execBcont ba rs1 s
  | .itinit it ba => Sys2Proof.Machine.execItinit it ba s
  | .itnext rd it => Sys2Proof.Machine.execItnext rd it s
  | .itlast rd it => Sys2Proof.Machine.execItlast rd it s

end Sys2Proof.Machine
end

