-- ==== Sys2Proof/Machine/HostPort.lean ====
section
/-! DEFINITION. The port operations (20_memory.md R51, R52, R54) and reset (70_reset_and_hazards.md R230). -/

namespace Sys2Proof.Machine

/-- What a read returned to the host goes to the end of `replies` (70_reset_and_hazards.md R236). -/
def State.reply (s : State) (r : PortReply) : State :=
  { s with replies := s.replies ++ [r] }

/-- The fault a decoding error raises (30_encoding.md R79). -/
def decodeFault : DecodeError → FaultCode
  | .illegalOpcode => .illegalOpcode
  | .reservedField => .reservedField

/-- `PortWrite(i, v)`, accepted in every state (R51). -/
def portWrite (i : Fin 8) (v : Word) (s : State) : State := s.writeA i v

/-- `PortRead(i)` (R52): the value, or no value and, while `STATUS.FAULT = 0`, the fault `PORT_UNWRITTEN_READ` with
`FCMD <- 0`. -/
def portRead (i : Fin 8) (s : State) : State :=
  match s.a[i] with
  | some v => s.reply (.value v)
  | none => (s.takeFault .portUnwrittenRead 0).reply .noValue

/-- `PortCmd(w)`: `execute(w)` of 60_exceptions.md R208. Ignored while faulted (R209); then decoding comes before every
other check (30_encoding.md R79). -/
def portCmd (w : Cmd) (s : State) : Host.Outcome State Fault Refusal :=
  if s.status.fault then .next s
  else
    match decode w with
    | .error e => .next (s.takeFault (decodeFault e) w)
    | .ok i => exec i s

/-- `Reset()` (R230): every piece of the CORE's state to its value in 10_state.md R37. What the host has issued and what
it has read are the host's and stay (log entry 9). -/
def portReset (s : State) : State :=
  { State.reset with port := s.port, replies := s.replies }

/-- One port operation takes effect (R57, R61). -/
def portStep (op : PortOp) (s : State) : Host.Outcome State Fault Refusal :=
  match op with
  | .write i v => .next (portWrite i v s)
  | .read i => .next (portRead i s)
  | .readStatus => .next (s.reply (.status (statusWord s.status)))
  | .readFcause => .next (s.reply (.fcause s.fcause))
  | .readFcmd => .next (s.reply (.fcmd s.fcmd))
  | .cmd w => portCmd w s
  | .reset => .next (portReset s)

/-- The port operations that the host's bus beats stand for, issued after those already issued: R55 and R58, through
the OPEN parameter `HOST_BUS_MAPPING` (log entry 10). -/
def State.hostBus (s : State) (beats : List BusBeat) : State :=
  { s with port := s.port ++ Config.hostBusMapping beats }

end Sys2Proof.Machine
end

