-- ==== Sys2Proof/Machine/Step.lean ====
section
/-! DEFINITION. One step: the oldest port operation that the host has issued takes effect (20_memory.md R50, R61). -/

namespace Sys2Proof.Machine

/-- The next port operation in the order of issue takes effect (R61). With none issued nothing takes a step (R50), and
the machine stays as it is until the host issues one (log entry 3). -/
def step (s : State) : Host.Outcome State Fault Refusal :=
  match s.port with
  | [] => .next s
  | op :: rest => portStep op { s with port := rest }

/-- `s` with the host's next port operation being `PortCmd` of the word `w` of `nbits` bits: a command is handed over by
the host, never fetched (R64), so this is where the next command comes from. -/
def State.withFetchWord (s : State) (nbits w : Nat) : State :=
  { s with port := .cmd (BitVec.ofNat 32 (w % 2 ^ nbits)) :: s.port }

end Sys2Proof.Machine
end

