-- ==== Sys2Proof/Safety.lean ====
section
/-! DEFINITION. What counts as a good run (60_exceptions.md R205; 70_reset_and_hazards.md R236) and the invariants that the
spec gives the registers (10_state.md R24, R28, R30, R32, R33). -/

namespace Sys2Proof.Machine

/-- A contiguous prefix mask: "exactly one n in 0..128" with `mask = mask_from_bits(n)` (R24). -/
def ContiguousMask (m : Word) : Prop := ∃ n, n ≤ 128 ∧ m = maskFromBits n

/-- The two invariants of a valid block register (R24). -/
def Block.Inv (x : Block) : Prop := x.pfx &&& x.mask = x.pfx ∧ ContiguousMask x.mask

/-- The invariant of a valid iterator register: `val(cur) <= val(end)`, `val(end)` in [1, 2^128] (R28), and
`origin + val(end) <= 2^128`, on which R187 rests. -/
def Iter.Inv (x : Iter) : Prop :=
  x.cur.val ≤ x.limit.val ∧ 1 ≤ x.limit.val ∧ x.limit.val ≤ 2 ^ 128 ∧ x.origin.toNat + x.limit.val ≤ 2 ^ 128

/-- The fault registers: without a fault `FCAUSE` and `FCMD` are 0; with one `FCAUSE` holds a code of 60_exceptions.md R207,
so its bits 31:4 are zero (R32, R33); and `ERR` is never the reserved code (R203). -/
def FaultInv (s : State) : Prop :=
  (s.status.fault = false → s.fcause = 0 ∧ s.fcmd = 0) ∧
    (s.status.fault = true → 1 ≤ s.fcause.toNat ∧ s.fcause.toNat ≤ 7) ∧ s.status.err ≠ .incorrectCidrString

/-- The invariant of the machine. -/
def State.Inv (s : State) : Prop :=
  (∀ r : Fin 4, ∀ x, s.b[r] = some x → x.Inv) ∧ (∀ j : Fin 2, ∀ x, s.it[j] = some x → x.Inv) ∧ FaultInv s

/-- A run (R236): the port operations `ops`, in order, from the state after reset. -/
def runFromReset (ops : List PortOp) : Host.Outcome State Fault Refusal :=
  Sys2Proof.core.run ops.length { State.reset with port := ops }

/-- A run is good only if `STATUS.FAULT = 0` in its final state (R205, R236). -/
def GoodFinal (s : State) : Prop := s.status.fault = false

/-- The state that fault entry leaves, as 60_exceptions.md R206 lists it: `STATUS.FAULT`, `FCAUSE`, `FCMD`, nothing else. -/
def recordFault (s : State) (code : Nat) (w : Cmd) : State :=
  { s with status := { s.status with fault := true }, fcause := BitVec.ofNat 32 code, fcmd := w }

/-- The reserved opcodes of 30_encoding.md R75. -/
def ReservedOpcode (op : Nat) : Prop :=
  op = 0x00 ∨ (0x04 ≤ op ∧ op ≤ 0x07) ∨ (0x0c ≤ op ∧ op ≤ 0x0f) ∨ op = 0x13 ∨ (0x1a ≤ op ∧ op ≤ 0x1f) ∨
    (0x22 ≤ op ∧ op ≤ 0x27) ∨ (0x2b ≤ op ∧ op ≤ 0x3f)

/-- `match` and `mask` of each row of spec/opcode_table.json (30_encoding.md R74), in the table's order. -/
def opcodeTable : List (Cmd × Cmd) :=
  [(0x04000000#32, 0xfc7fff00#32), (0x08000000#32, 0xfc0fffff#32), (0x0c000000#32, 0xfc0fffff#32), (0x20000000#32, 0xfc0fffff#32),
    (0x24000000#32, 0xfc0fffff#32), (0x28000000#32, 0xfc0fffff#32), (0x2c000000#32, 0xfc0fffff#32)] ++
  [(0x40000000#32, 0xff8e7f00#32), (0x44000000#32, 0xff807fff#32), (0x48000000#32, 0xff807fff#32), (0x50000000#32, 0xfc7e7fff#32),
    (0x54000000#32, 0xfc7e7fff#32), (0x58000000#32, 0xfc7e7fff#32), (0x5c000000#32, 0xfc7e7fff#32)] ++
  [(0x60000000#32, 0xfc7e7fff#32), (0x64000000#32, 0xfc7e7fff#32), (0x80000000#32, 0xfffe1fff#32), (0x84000000#32, 0xff8e7fff#32),
    (0xa0000000#32, 0xfffe6fff#32), (0xa4000000#32, 0xfc7fefff#32), (0xa8000000#32, 0xfc7fefff#32)]

/-- The encoding that the rule of a command gives it: its words are selected by `(w & k) = m` (30_encoding.md R74). -/
def HasEncoding (i : Instr) (m k : Cmd) : Prop := i.wellFormed = true → encode i &&& k = m

/-- The value registers a command reads, in the order they are checked (60_exceptions.md R208). -/
def sourceRegs : Instr → List (Fin 8)
  | .mkmaskr _ rs1 | .masklen _ rs1 | .oct2u _ rs1 | .u2oct _ rs1 | .grp2u _ rs1 | .u2grp _ rs1 => [rs1]
  | .cidrb _ rs1 _ | .bcont _ rs1 => [rs1]
  | .cidrbr _ rs1 rs2 | .cidrm _ rs1 rs2 => [rs1, rs2]
  | .mkmask _ _ | .bpfx _ _ | .bmask _ _ | .blen _ _ | .bfirst _ _ | .blast _ _ | .bsize _ _ => []
  | .bcmp _ _ | .itinit _ _ | .itnext _ _ | .itlast _ _ => []

/-- The block registers a command reads as sources, in the order they are checked (R208). -/
def sourceBlocks : Instr → List (Fin 4)
  | .bpfx _ ba | .bmask _ ba | .blen _ ba | .bfirst _ ba | .blast _ ba | .bsize _ ba => [ba]
  | .bcont ba _ | .itinit _ ba => [ba]
  | .bcmp ba bb => [ba, bb]
  | .mkmask _ _ | .mkmaskr _ _ | .masklen _ _ | .oct2u _ _ | .u2oct _ _ | .grp2u _ _ | .u2grp _ _ => []
  | .cidrb _ _ _ | .cidrbr _ _ _ | .cidrm _ _ _ | .itnext _ _ | .itlast _ _ => []

/-- The iterator register a command reads (R208). -/
def sourceIters : Instr → List (Fin 2)
  | .itnext _ it | .itlast _ it => [it]
  | .mkmask _ _ | .mkmaskr _ _ | .masklen _ _ | .oct2u _ _ | .u2oct _ _ | .grp2u _ _ | .u2grp _ _ => []
  | .cidrb _ _ _ | .cidrbr _ _ _ | .cidrm _ _ _ | .bpfx _ _ | .bmask _ _ | .blen _ _ | .bfirst _ _ => []
  | .blast _ _ | .bsize _ _ | .bcmp _ _ | .bcont _ _ | .itinit _ _ => []

/-- The value register a command may write (10_state.md R21). -/
def destReg : Instr → Option (Fin 8)
  | .mkmask rd _ | .mkmaskr rd _ | .masklen rd _ | .oct2u rd _ | .u2oct rd _ | .grp2u rd _ | .u2grp rd _ => some rd
  | .bpfx rd _ | .bmask rd _ | .blen rd _ | .bfirst rd _ | .blast rd _ | .bsize rd _ => some rd
  | .itnext rd _ | .itlast rd _ => some rd
  | .cidrb _ _ _ | .cidrbr _ _ _ | .cidrm _ _ _ | .bcmp _ _ | .bcont _ _ | .itinit _ _ => none

/-- The block register a command may write (10_state.md R25). -/
def destBlock : Instr → Option (Fin 4)
  | .cidrb ba _ _ | .cidrbr ba _ _ | .cidrm ba _ _ => some ba
  | .mkmask _ _ | .mkmaskr _ _ | .masklen _ _ | .oct2u _ _ | .u2oct _ _ | .grp2u _ _ | .u2grp _ _ => none
  | .bpfx _ _ | .bmask _ _ | .blen _ _ | .bfirst _ _ | .blast _ _ | .bsize _ _ => none
  | .bcmp _ _ | .bcont _ _ | .itinit _ _ | .itnext _ _ | .itlast _ _ => none

/-- The iterator register a command may write (10_state.md R28). -/
def destIter : Instr → Option (Fin 2)
  | .itinit it _ | .itnext _ it | .itlast _ it => some it
  | .mkmask _ _ | .mkmaskr _ _ | .masklen _ _ | .oct2u _ _ | .u2oct _ _ | .grp2u _ _ | .u2grp _ _ => none
  | .cidrb _ _ _ | .cidrbr _ _ _ | .cidrm _ _ _ | .bpfx _ _ | .bmask _ _ | .blen _ _ | .bfirst _ _ => none
  | .blast _ _ | .bsize _ _ | .bcmp _ _ | .bcont _ _ => none

/-- The prefix length is outside the mask converter's contract: `MKMASK` with `imm8 > 128`, or `MKMASKR` with
`A[rs1] > 128` (R208, code 6 of R207). -/
def BreaksContract (i : Instr) (s : State) : Prop :=
  (∃ rd imm8, i = .mkmask rd imm8 ∧ 128 < imm8) ∨ (∃ rd rs1 v, i = .mkmaskr rd rs1 ∧ s.a[rs1] = some v ∧ 128 < v.toNat)

/-- `IncorrectBitsRange` is what the command reports: `CIDRB` with `imm8 > 128`, or `CIDRBR` with `A[rs2] > 128` (R202). -/
def ReportsBitsRange (i : Instr) (s : State) : Prop :=
  (∃ ba rs1 imm8, i = .cidrb ba rs1 imm8 ∧ 128 < imm8) ∨
    (∃ ba rs1 rs2 v, i = .cidrbr ba rs1 rs2 ∧ s.a[rs2] = some v ∧ 128 < v.toNat)

/-- `IncorrectMask` is what the command reports: `CIDRM` with a mask in `A[rs2]` that is not contiguous (R202). -/
def ReportsBadMask (i : Instr) (s : State) : Prop :=
  ∃ ba rs1 rs2 m, i = .cidrm ba rs1 rs2 ∧ s.a[rs2] = some m ∧ ¬ ContiguousMask m

/-- What `k` commands `ITNEXT A[rd], I[j]` in a row yield from `s`: the values written to `A[rd]`, in order, and the state
after them; `none` if one of them produced no value (45_iterator.md R188). -/
def driveNext (rd : Fin 8) (j : Fin 2) : Nat → State → Option (List Word × State)
  | 0, s => some ([], s)
  | k + 1, s =>
    match exec (.itnext rd j) s with
    | .next t =>
      match t.status.v, t.a[rd] with
      | true, some v => (driveNext rd j k t).map fun r => (v :: r.1, r.2)
      | _, _ => none
    | .fault _ => none
    | .refused _ => none

end Sys2Proof.Machine
end

