-- ==== Sys2Proof/Certificates/Slice0/Obligations.lean ====
section
/-! DEFINITION. The statements for the provers. Each docstring names the rules of spec/ that it formalises. -/

open Sys2Proof Sys2Proof.Machine

/-! ## Encoding -/

/-- R71, R74, R77, R79: the word of every well-formed command decodes to that command, every operand at every value. -/
def Obligations.DecodeOfEncode : Prop :=
  ∀ i : Instr, i.wellFormed = true → decode (encode i) = .ok i

/-- R70, R73, R79: a word that decodes to a command is that command's only word, and the command is well formed. So
the word that fault entry puts into FCMD is the word the host issued (log entry 8). -/
def Obligations.EncodeOfDecode : Prop :=
  ∀ (w : Cmd) (i : Instr), decode w = .ok i → i.wellFormed = true ∧ encode i = w

/-- R75 with the table of R74: every word has a reserved opcode, or an assigned opcode and a nonzero bit in an unused
field, or is an assigned command; it is refused, refused and decoded accordingly. -/
def Obligations.EveryWordIsOneOfThree : Prop :=
  ∀ w : Cmd,
    (ReservedOpcode (slice w 31 26) ∧ decode w = .error .illegalOpcode) ∨
    (¬ ReservedOpcode (slice w 31 26) ∧
      ∃ row ∈ opcodeTable, slice row.1 31 26 = slice w 31 26 ∧
        ((w &&& row.2 ≠ row.1 ∧ decode w = .error .reservedField) ∨
          (w &&& row.2 = row.1 ∧ ∃ i, decode w = .ok i)))

/-- Words of 30_encoding.md R77 and of 41 to 45, and words of 95_test_vectors.md 2.10, as the spec prints them. -/
def Obligations.SpecWordsDecode : Prop :=
  decode 0x05000040 = .ok (.mkmask 2 64) ∧ decode 0x40008020 = .ok (.cidrb 1 0 32) ∧
  decode 0xa5801000 = .ok (.itnext 3 1) ∧ decode 0x44148000 = .ok (.cidrbr 1 1 2) ∧
  decode 0x2d900000 = .ok (.u2grp 3 1) ∧ decode 0x80002000 = .ok (.bcmp 0 1) ∧
  decode 0x00000000 = .error .illegalOpcode ∧ decode 0x04000100 = .error .reservedField

/-! ## The port and the step -/

/-- R54, R61, R208: the next operation being `PortCmd(w)`, `w` a command, a step outside the faulted state is `exec` of that
command, past that operation. (That the host's operations stand in `port` is the model's, log entry 1.) -/
def Obligations.StepRunsDecodedCommand : Prop :=
  ∀ (s : State) (rest : List PortOp) (w : Cmd) (i : Instr), s.port = .cmd w :: rest → s.status.fault = false →
    decode w = .ok i → step s = exec i { s with port := rest }

/-- R64: a command handed over by `withFetchWord` is the very next one that a step executes (log entries 1 and 16). -/
def Obligations.HandedWordRunsNext : Prop :=
  ∀ (s : State) (w : Cmd) (i : Instr), s.status.fault = false → decode w = .ok i →
    step (s.withFetchWord 32 w.toNat) = exec i s

/-- R50: with nothing issued nothing happens (that the model steps to the same state is its choice, log entry 3). -/
def Obligations.IdleStepChangesNothing : Prop :=
  ∀ s : State, s.port = [] → step s = .next s

/-- R61: operations take effect in the order of issue, one a step, and none adds to or reorders the rest (log entry 1). -/
def Obligations.StepsFollowOrderOfIssue : Prop :=
  ∀ (s t : State) (op : PortOp) (rest : List PortOp), s.port = op :: rest → step s = .next t →
    t.port = rest ∧ portStep op { s with port := rest } = .next t

/-- R51: `PortWrite` sets the register and marks it written, in every state, the faulted one included. -/
def Obligations.PortWriteSetsRegister : Prop :=
  ∀ (s : State) (i : Fin 8) (v : Word), portStep (.write i v) s = .next { s with a := s.a.set i (some v) }

/-- R52 (the value goes to `replies`, log entry 2): a written register's value and nothing else; of an unwritten register
no value, and outside the faulted state the fault PORT_UNWRITTEN_READ, code 7 of R207, with `FCMD` 0. -/
def Obligations.PortReadReturnsOrFaults : Prop :=
  ∀ (s : State) (i : Fin 8),
    (∀ v, s.a[i] = some v → portStep (.read i) s = .next { s with replies := s.replies ++ [.value v] }) ∧
    (s.a[i] = none → s.status.fault = false →
      portStep (.read i) s = .next { recordFault s 7 0 with replies := s.replies ++ [.noValue] }) ∧
    (s.a[i] = none → s.status.fault = true →
      portStep (.read i) s = .next { s with replies := s.replies ++ [.noValue] })

/-- R30, R54: what the three status reads return, `STATUS` bit by bit, and that they change nothing else (the replies are
the model's, log entry 2). -/
def Obligations.StatusReadsReturnRegisters : Prop :=
  ∀ s : State,
    (∃ w, portStep .readStatus s = .next { s with replies := s.replies ++ [.status w] } ∧
      (s.status.err = .none → slice w 1 0 = 0) ∧ (s.status.err = .incorrectBitsRange → slice w 1 0 = 1) ∧
      (s.status.err = .incorrectMask → slice w 1 0 = 2) ∧
      w.getLsbD 2 = s.status.v ∧ w.getLsbD 3 = s.status.ovf ∧
      (s.status.cmp = .equal → slice w 5 4 = 0) ∧ (s.status.cmp = .less → slice w 5 4 = 1) ∧
      (s.status.cmp = .greater → slice w 5 4 = 2) ∧
      w.getLsbD 6 = s.status.c ∧ w.getLsbD 7 = s.status.fault ∧ slice w 31 8 = 0) ∧
    portStep .readFcause s = .next { s with replies := s.replies ++ [.fcause s.fcause] } ∧
    portStep .readFcmd s = .next { s with replies := s.replies ++ [.fcmd s.fcmd] }

/-- R37, R230: the reset event, from every state, and the state after power-on: every register unwritten or invalid,
STATUS, FCAUSE and FCMD zero. -/
def Obligations.ResetSetsEveryPiece : Prop :=
  (∀ s : State, ∃ t, portStep .reset s = .next t ∧ (∀ r : Fin 8, t.a[r] = none) ∧ (∀ r : Fin 4, t.b[r] = none) ∧
    (∀ j : Fin 2, t.it[j] = none) ∧ statusWord t.status = 0 ∧ t.fcause = 0 ∧ t.fcmd = 0) ∧
  (∀ r : Fin 8, State.reset.a[r] = none) ∧ (∀ r : Fin 4, State.reset.b[r] = none) ∧
    (∀ j : Fin 2, State.reset.it[j] = none) ∧ statusWord State.reset.status = 0 ∧
    State.reset.fcause = 0 ∧ State.reset.fcmd = 0

/-! ## Faults -/

/-- R209: in the faulted state commands are ignored, port reads and writes work, the first fault is kept, and only reset
leaves the state (what a read returned goes to `replies`, log entry 2). -/
def Obligations.FaultedStateOnlyResetLeaves : Prop :=
  ∀ s : State, s.status.fault = true →
    (∀ w, portStep (.cmd w) s = .next s) ∧
    (∀ i v, portStep (.write i v) s = .next { s with a := s.a.set i (some v) }) ∧
    (∀ (i : Fin 8) v, s.a[i] = some v → portStep (.read i) s = .next { s with replies := s.replies ++ [.value v] }) ∧
    (∀ op, op ≠ .reset → ∃ t, portStep op s = .next t ∧ t.status = s.status ∧ t.fcause = s.fcause ∧ t.fcmd = s.fcmd) ∧
    (∃ t, portStep .reset s = .next t ∧ t.status.fault = false)

/-- R205, R209, R231 along a whole run: from a faulted state, as long as the host issues no reset, no number of steps clears
the fault, changes its record, or changes a block or iterator register (the host's operations stand in `port`, log entry 1). -/
def Obligations.FaultIsStickyAlongRuns : Prop :=
  ∀ (k : Nat) (s t : State), s.status.fault = true → PortOp.reset ∉ s.port → Sys2Proof.core.run k s = .next t →
    t.status = s.status ∧ t.fcause = s.fcause ∧ t.fcmd = s.fcmd ∧ t.b = s.b ∧ t.it = s.it

/-- R208 with the codes of R207 and the entry of R206: the checks of one command word, in their order, each with the
condition that the ones before it passed, and FCMD the word; if all pass, the command runs and raises no fault. -/
def Obligations.ChecksFollowTheOrder : Prop :=
  ∀ (s : State) (w : Cmd),
    (s.status.fault = true → portStep (.cmd w) s = .next s) ∧
    (s.status.fault = false →
      (decode w = .error .illegalOpcode → portStep (.cmd w) s = .next (recordFault s 1 w)) ∧
      (decode w = .error .reservedField → portStep (.cmd w) s = .next (recordFault s 2 w)) ∧
      (∀ i, decode w = .ok i →
        ((∃ r ∈ sourceRegs i, s.a[r] = none) → portStep (.cmd w) s = .next (recordFault s 3 w)) ∧
        ((∀ r ∈ sourceRegs i, s.a[r] ≠ none) →
          ((∃ r ∈ sourceBlocks i, s.b[r] = none) → portStep (.cmd w) s = .next (recordFault s 4 w)) ∧
          ((∀ r ∈ sourceBlocks i, s.b[r] ≠ none) →
            ((∃ j ∈ sourceIters i, s.it[j] = none) → portStep (.cmd w) s = .next (recordFault s 5 w)) ∧
            ((∀ j ∈ sourceIters i, s.it[j] ≠ none) →
              (BreaksContract i s → portStep (.cmd w) s = .next (recordFault s 6 w)) ∧
              (¬ BreaksContract i s → portStep (.cmd w) s = exec i s ∧
                ∀ t, exec i s = .next t → t.status.fault = false ∧ t.fcause = s.fcause ∧ t.fcmd = s.fcmd))))))

/-- R206: whatever operation raises a fault changes STATUS.FAULT, FCAUSE and FCMD (the command word, 0 for a port read) and
no register and no other STATUS field; the code is one of R207. -/
def Obligations.FaultEntryIsPrecise : Prop :=
  ∀ (s t : State) (op : PortOp), s.status.fault = false → portStep op s = .next t → t.status.fault = true →
    t.status = { s.status with fault := true } ∧ t.a = s.a ∧ t.b = s.b ∧ t.it = s.it ∧
    1 ≤ t.fcause.toNat ∧ t.fcause.toNat ≤ 7 ∧
    ((∃ w, op = .cmd w ∧ t.fcmd = w) ∨ (∃ i, op = .read i ∧ t.fcause = 7 ∧ t.fcmd = 0))

/-- R73, R75, R206, R207: a word with a reserved opcode raises ILLEGAL_OPCODE, and a word with an assigned opcode and a nonzero
bit in an unused field raises RESERVED_FIELD, by the table of R74. -/
def Obligations.WordsThatAreNoCommandFault : Prop :=
  ∀ (s : State) (w : Cmd), s.status.fault = false →
    (ReservedOpcode (slice w 31 26) → portStep (.cmd w) s = .next (recordFault s 1 w)) ∧
    (∀ row ∈ opcodeTable, slice row.1 31 26 = slice w 31 26 → w &&& row.2 ≠ row.1 →
      portStep (.cmd w) s = .next (recordFault s 2 w))

/-! ## What may write what -/

/-- R21: a value register changes only by a PortWrite of it, a command whose destination it is (MASKLEN of a valid mask only,
ITNEXT with an element only), or reset; each such write leaves it written, and no command that faults writes it. -/
def Obligations.ValueRegisterWriters : Prop :=
  ∀ (s t : State) (op : PortOp) (r : Fin 8), portStep op s = .next t → t.a[r] ≠ s.a[r] →
    op = .reset ∨ (∃ v, op = .write r v ∧ t.a[r] = some v) ∨
      (∃ w i, op = .cmd w ∧ decode w = .ok i ∧ destReg i = some r ∧ t.a[r] ≠ none ∧ s.status.fault = false ∧
        t.status.fault = false ∧ ((∃ rs1, i = .masklen r rs1) ∨ (∃ j, i = .itnext r j) → t.status.v = true))

/-- R25: a block register changes only by reset or by a construction command of it that reports no error, and then it holds
a new valid block. -/
def Obligations.BlockRegisterWriters : Prop :=
  ∀ (s t : State) (op : PortOp) (r : Fin 4), portStep op s = .next t → t.b[r] ≠ s.b[r] →
    op = .reset ∨
      (∃ w i, op = .cmd w ∧ decode w = .ok i ∧ destBlock i = some r ∧ t.status.err = .none ∧ t.status.fault = false ∧
        ∃ x, t.b[r] = some x ∧ x.Inv)

/-- R28: an iterator register changes only by reset, ITINIT (every field), ITNEXT or ITLAST (the cursor alone) of it, and from
a state with the invariant of the machine it keeps its own. So the two iterators are independent of each other and of every
later construction (R27). -/
def Obligations.IteratorRegisterWriters : Prop :=
  ∀ (s t : State) (op : PortOp) (j : Fin 2), portStep op s = .next t → t.it[j] ≠ s.it[j] →
    (op = .reset ∨
      (∃ w ba x e, op = .cmd w ∧ decode w = .ok (.itinit j ba) ∧ s.b[ba] = some x ∧
        t.it[j] = some { origin := x.pfx, cur := { v := 0, o := false }, limit := e }) ∨
      (∃ w rd, op = .cmd w ∧ (decode w = .ok (.itnext rd j) ∨ decode w = .ok (.itlast rd j)) ∧
        ∃ x c, s.it[j] = some x ∧ t.it[j] = some { x with cur := c })) ∧
    (s.Inv → ∀ x, t.it[j] = some x → x.cur.val ≤ x.limit.val ∧ 1 ≤ x.limit.val ∧ x.limit.val ≤ 2 ^ 128)

/-- R31: what a command does to STATUS. One that faults changes FAULT alone; one that completes writes ERR, whatever ERR held,
and V, OVF, CMP and C only where the command's own rule says so. -/
def Obligations.StatusWritePolicy : Prop :=
  ∀ (s t : State) (i : Instr), s.status.fault = false → exec i s = .next t →
    (t.status.fault = true → t.status = { s.status with fault := true }) ∧
    (t.status.fault = false →
      (∀ e, ∃ u, exec i { s with status := { s.status with err := e } } = .next u ∧ u.status.err = t.status.err) ∧
      ((∀ rd rs1, i ≠ .masklen rd rs1) → (∀ rd j, i ≠ .itnext rd j) → (∀ rd j, i ≠ .itlast rd j) →
        t.status.v = s.status.v) ∧
      ((∀ rd ba, i ≠ .bsize rd ba) → t.status.ovf = s.status.ovf) ∧
      ((∀ ba bb, i ≠ .bcmp ba bb) → t.status.cmp = s.status.cmp) ∧
      ((∀ ba rs1, i ≠ .bcont ba rs1) → t.status.c = s.status.c))

/-- R202, R203, R204: a command that completes reports IncorrectBitsRange exactly where R202 says, IncorrectMask exactly where
R202 says, never code 3, and with an error no register changes. -/
def Obligations.ErrorsOnlyFromConstruction : Prop :=
  ∀ (s t : State) (i : Instr), s.status.fault = false → exec i s = .next t → t.status.fault = false →
    (t.status.err = .incorrectBitsRange ↔ ReportsBitsRange i s) ∧
    (t.status.err = .incorrectMask ↔ ReportsBadMask i s) ∧
    t.status.err ≠ .incorrectCidrString ∧
    (t.status.err ≠ .none → t.a = s.a ∧ t.b = s.b ∧ t.it = s.it)

/-- The frame of every command (R21, R25, R28, R206): outside its destinations nothing in the register files changes, FCAUSE
and FCMD change only with a fault, and the host's side of the port is untouched. -/
def Obligations.CommandFrame : Prop :=
  ∀ (s t : State) (i : Instr), exec i s = .next t →
    (∀ r : Fin 8, destReg i ≠ some r → t.a[r] = s.a[r]) ∧ (∀ r : Fin 4, destBlock i ≠ some r → t.b[r] = s.b[r]) ∧
    (∀ j : Fin 2, destIter i ≠ some j → t.it[j] = s.it[j]) ∧
    (t.status.fault = s.status.fault → t.fcause = s.fcause ∧ t.fcmd = s.fcmd) ∧
    t.port = s.port ∧ t.replies = s.replies

/-! ## The invariant -/

/-- R24, R28, R32, R33, R203: every step keeps the invariant of the machine, from every state that has it. -/
def Obligations.StepKeepsInvariant : Prop :=
  ∀ s t : State, s.Inv → step s = .next t → t.Inv

/-- The state after reset has the invariant (R37). -/
def Obligations.ResetHasInvariant : Prop := State.reset.Inv

/-- R61, R181, R235: in a state with the invariant a step always has a next state: no word and no operand stops the
machine (log entries 1 and 3). -/
def Obligations.StepNeverStops : Prop :=
  ∀ s : State, s.Inv → ∃ t, step s = .next t

/-- R236: a run of any list of port operations from reset reaches a final state, which has the invariant and in which every
operation has taken effect (log entry 1). -/
def Obligations.EveryRunCompletes : Prop :=
  ∀ ops : List PortOp, ∃ t, runFromReset ops = .next t ∧ t.Inv ∧ t.port = []

/-! ## Mask converter and validator -/

/-- R100, R102: MKMASK writes the mask whose top `imm8` bits are 1 and the rest 0; above 128 it faults CONTRACT. -/
def Obligations.MkmaskWritesMask : Prop :=
  ∀ (s : State) (rd : Fin 8) (imm8 : Nat), s.status.fault = false →
    HasEncoding (.mkmask rd imm8) 0x04000000#32 0xfc7fff00#32 ∧
    (imm8 ≤ 128 → ∃ m : Word, (∀ k < 128, m.getLsbD k = decide (128 - imm8 ≤ k)) ∧
      m.toNat = (2 ^ imm8 - 1) * 2 ^ (128 - imm8) ∧
      exec (.mkmask rd imm8) s =
        .next { s with a := s.a.set rd (some m), status := { s.status with err := .none } }) ∧
    (128 < imm8 → imm8 ≤ 255 → exec (.mkmask rd imm8) s = .next (recordFault s 6 (encode (.mkmask rd imm8))))

/-- R103: MKMASKR does so with the whole value of its source register. -/
def Obligations.MkmaskrWritesMask : Prop :=
  ∀ (s : State) (rd rs1 : Fin 8), s.status.fault = false →
    HasEncoding (.mkmaskr rd rs1) 0x08000000#32 0xfc0fffff#32 ∧
    (∀ b : Word, s.a[rs1] = some b → b.toNat ≤ 128 → ∃ m : Word, (∀ k < 128, m.getLsbD k = decide (128 - b.toNat ≤ k)) ∧
      exec (.mkmaskr rd rs1) s =
        .next { s with a := s.a.set rd (some m), status := { s.status with err := .none } }) ∧
    (∀ b : Word, s.a[rs1] = some b → 128 < b.toNat →
      exec (.mkmaskr rd rs1) s = .next (recordFault s 6 (encode (.mkmaskr rd rs1)))) ∧
    (s.a[rs1] = none → exec (.mkmaskr rd rs1) s = .next (recordFault s 3 (encode (.mkmaskr rd rs1))))

/-- R104: MASKLEN of the mask of `n` writes `n` and sets V; of a mask that is no such mask it clears V and writes nothing. -/
def Obligations.MasklenValidates : Prop :=
  ∀ (s : State) (rd rs1 : Fin 8), s.status.fault = false →
    HasEncoding (.masklen rd rs1) 0x0c000000#32 0xfc0fffff#32 ∧
    (∀ n ≤ 128, s.a[rs1] = some (maskFromBits n) →
      exec (.masklen rd rs1) s =
        .next { s with a := s.a.set rd (some (BitVec.ofNat 128 n)), status := { s.status with err := .none, v := true } }) ∧
    (∀ m : Word, s.a[rs1] = some m → ¬ ContiguousMask m →
      exec (.masklen rd rs1) s = .next { s with status := { s.status with err := .none, v := false } }) ∧
    (s.a[rs1] = none → exec (.masklen rd rs1) s = .next (recordFault s 3 (encode (.masklen rd rs1))))

/-- R101, R106: the validator answers `n` exactly for the mask of `n`, nothing for every other value, and the 129 masks are
different from each other. -/
def Obligations.ValidatorIsExact : Prop :=
  (∀ (m : Word) (n : Nat), bitsFromMask m = some n ↔ n ≤ 128 ∧ m = maskFromBits n) ∧
  (∀ m : Word, bitsFromMask m = none ↔ ¬ ContiguousMask m) ∧
  (∀ a b : Nat, a ≤ 128 → b ≤ 128 → maskFromBits a = maskFromBits b → a = b)

/-- R105: for every b in 0..128 the mask of b validates to b, and MKMASK followed by MASKLEN writes b and sets V. -/
def Obligations.MaskRoundTrip : Prop :=
  ∀ b ≤ 128, bitsFromMask (maskFromBits b) = some b ∧
    ∀ (s : State) (rd re : Fin 8), s.status.fault = false →
      ∃ t u, exec (.mkmask rd b) s = .next t ∧ exec (.masklen re rd) t = .next u ∧
        u.a[re] = some (BitVec.ofNat 128 b) ∧ u.status.v = true

/-! ## Byte order -/

/-- R124 with R53 and R120: octet i of what OCT2U writes is byte lane i of its source, for all sixteen. -/
def Obligations.Oct2uReadsLanesAsOctets : Prop :=
  ∀ (s : State) (rd rs1 : Fin 8), s.status.fault = false →
    HasEncoding (.oct2u rd rs1) 0x20000000#32 0xfc0fffff#32 ∧
    (∀ r : Word, s.a[rs1] = some r → ∃ v : Word, (∀ i < 16, oct v i = byteLane r i) ∧
      exec (.oct2u rd rs1) s = .next { s with a := s.a.set rd (some v), status := { s.status with err := .none } }) ∧
    (s.a[rs1] = none → exec (.oct2u rd rs1) s = .next (recordFault s 3 (encode (.oct2u rd rs1))))

/-- R125 with R53 and R120: byte lane i of what U2OCT writes is octet i of its source. -/
def Obligations.U2octWritesOctetsAsLanes : Prop :=
  ∀ (s : State) (rd rs1 : Fin 8), s.status.fault = false →
    HasEncoding (.u2oct rd rs1) 0x24000000#32 0xfc0fffff#32 ∧
    (∀ v : Word, s.a[rs1] = some v → ∃ r : Word, (∀ i < 16, byteLane r i = oct v i) ∧
      exec (.u2oct rd rs1) s = .next { s with a := s.a.set rd (some r), status := { s.status with err := .none } }) ∧
    (s.a[rs1] = none → exec (.u2oct rd rs1) s = .next (recordFault s 3 (encode (.u2oct rd rs1))))

/-- R126 with R53 and R121: group j of what GRP2U writes is halfword lane j of its source. -/
def Obligations.Grp2uReadsLanesAsGroups : Prop :=
  ∀ (s : State) (rd rs1 : Fin 8), s.status.fault = false →
    HasEncoding (.grp2u rd rs1) 0x28000000#32 0xfc0fffff#32 ∧
    (∀ r : Word, s.a[rs1] = some r → ∃ v : Word, (∀ j < 8, grp v j = halfLane r j) ∧
      exec (.grp2u rd rs1) s = .next { s with a := s.a.set rd (some v), status := { s.status with err := .none } }) ∧
    (s.a[rs1] = none → exec (.grp2u rd rs1) s = .next (recordFault s 3 (encode (.grp2u rd rs1))))

/-- R127 with R53 and R121: halfword lane j of what U2GRP writes is group j of its source. -/
def Obligations.U2grpWritesGroupsAsLanes : Prop :=
  ∀ (s : State) (rd rs1 : Fin 8), s.status.fault = false →
    HasEncoding (.u2grp rd rs1) 0x2c000000#32 0xfc0fffff#32 ∧
    (∀ v : Word, s.a[rs1] = some v → ∃ r : Word, (∀ j < 8, halfLane r j = grp v j) ∧
      exec (.u2grp rd rs1) s = .next { s with a := s.a.set rd (some r), status := { s.status with err := .none } }) ∧
    (s.a[rs1] = none → exec (.u2grp rd rs1) s = .next (recordFault s 3 (encode (.u2grp rd rs1))))

/-- R128: both reversals are their own inverses, so the two command pairs give the value back, and one after the other swaps
the two bytes of each halfword. -/
def Obligations.ConversionsRoundTrip : Prop :=
  (∀ v : Word, bswap128 (bswap128 v) = v ∧ hswap128 (hswap128 v) = v ∧
    ∀ j < 8, byteLane (hswap128 (bswap128 v)) (2 * j) = byteLane v (2 * j + 1) ∧
      byteLane (hswap128 (bswap128 v)) (2 * j + 1) = byteLane v (2 * j)) ∧
  (∀ (s : State) (rd re rs1 : Fin 8) (v : Word), s.status.fault = false → s.a[rs1] = some v →
    (∃ t u, exec (.u2oct rd rs1) s = .next t ∧ exec (.oct2u re rd) t = .next u ∧ u.a[re] = some v) ∧
    (∃ t u, exec (.u2grp rd rs1) s = .next t ∧ exec (.grp2u re rd) t = .next u ∧ u.a[re] = some v))

/-- R120 to R123: the reversal of a lane image is the canonical value of the grouped form, whose octets and groups are the ones
it was made of; a group is its two octets, high byte first. -/
def Obligations.LaneImagesAreGroupedForms : Prop :=
  (∀ g : Vector (BitVec 8) 16, bswap128 (octetLaneImage g) = fromOctets g ∧
    ∀ i : Fin 16, oct (fromOctets g) i = (g[i]).toNat ∧ byteLane (octetLaneImage g) i = (g[i]).toNat) ∧
  (∀ h : Vector (BitVec 16) 8, hswap128 (groupLaneImage h) = fromGroups h ∧
    ∀ j : Fin 8, grp (fromGroups h) j = (h[j]).toNat ∧ halfLane (groupLaneImage h) j = (h[j]).toNat) ∧
  (∀ (v : Word) (j : Nat), j < 8 → grp v j = oct v (2 * j) * 256 + oct v (2 * j + 1))

/-! ## Blocks -/

/-- R140, R141: CIDRB makes the block of the masked prefix, its host bits cleared; a length above 128 is IncorrectBitsRange and
leaves the block register as it was. -/
def Obligations.CidrbBuildsBlock : Prop :=
  ∀ (s : State) (ba : Fin 4) (rs1 : Fin 8) (imm8 : Nat), s.status.fault = false →
    HasEncoding (.cidrb ba rs1 imm8) 0x40000000#32 0xff8e7f00#32 ∧
    (∀ p : Word, s.a[rs1] = some p →
      (imm8 ≤ 128 → ∃ x : Block, x.Inv ∧ x.mask = maskFromBits imm8 ∧
        (∀ k < 128, x.pfx.getLsbD k = (p.getLsbD k && decide (128 - imm8 ≤ k))) ∧
        exec (.cidrb ba rs1 imm8) s =
          .next { s with b := s.b.set ba (some x), status := { s.status with err := .none } }) ∧
      (128 < imm8 → imm8 ≤ 255 →
        exec (.cidrb ba rs1 imm8) s = .next { s with status := { s.status with err := .incorrectBitsRange } })) ∧
    (s.a[rs1] = none → imm8 ≤ 255 → exec (.cidrb ba rs1 imm8) s = .next (recordFault s 3 (encode (.cidrb ba rs1 imm8))))

/-- R140, R142: CIDRBR does so with the whole value of `A[rs2]` as the length. -/
def Obligations.CidrbrBuildsBlock : Prop :=
  ∀ (s : State) (ba : Fin 4) (rs1 rs2 : Fin 8), s.status.fault = false →
    HasEncoding (.cidrbr ba rs1 rs2) 0x44000000#32 0xff807fff#32 ∧
    (∀ p b : Word, s.a[rs1] = some p → s.a[rs2] = some b →
      (b.toNat ≤ 128 → ∃ x : Block, x.Inv ∧ x.mask = maskFromBits b.toNat ∧
        (∀ k < 128, x.pfx.getLsbD k = (p.getLsbD k && decide (128 - b.toNat ≤ k))) ∧
        exec (.cidrbr ba rs1 rs2) s =
          .next { s with b := s.b.set ba (some x), status := { s.status with err := .none } }) ∧
      (128 < b.toNat →
        exec (.cidrbr ba rs1 rs2) s = .next { s with status := { s.status with err := .incorrectBitsRange } })) ∧
    (s.a[rs1] = none ∨ s.a[rs2] = none →
      exec (.cidrbr ba rs1 rs2) s = .next (recordFault s 3 (encode (.cidrbr ba rs1 rs2))))

/-- R140, R143: CIDRM makes the block of a contiguous mask; any other mask is IncorrectMask and leaves the register as it was. -/
def Obligations.CidrmBuildsBlock : Prop :=
  ∀ (s : State) (ba : Fin 4) (rs1 rs2 : Fin 8), s.status.fault = false →
    HasEncoding (.cidrm ba rs1 rs2) 0x48000000#32 0xff807fff#32 ∧
    (∀ p m : Word, s.a[rs1] = some p → s.a[rs2] = some m →
      (ContiguousMask m → ∃ x : Block, x.Inv ∧ x.mask = m ∧ x.pfx = p &&& m ∧
        exec (.cidrm ba rs1 rs2) s =
          .next { s with b := s.b.set ba (some x), status := { s.status with err := .none } }) ∧
      (¬ ContiguousMask m →
        exec (.cidrm ba rs1 rs2) s = .next { s with status := { s.status with err := .incorrectMask } })) ∧
    (s.a[rs1] = none ∨ s.a[rs2] = none →
      exec (.cidrm ba rs1 rs2) s = .next (recordFault s 3 (encode (.cidrm ba rs1 rs2))))

/-- R145, R146, R148: BPFX and BFIRST write the prefix, BMASK the mask, of a valid block; of an invalid one they fault
INVALID_BLOCK. -/
def Obligations.AccessorsReadTheBlock : Prop :=
  ∀ (s : State) (rd : Fin 8) (ba : Fin 4), s.status.fault = false →
    HasEncoding (.bpfx rd ba) 0x50000000#32 0xfc7e7fff#32 ∧
    HasEncoding (.bfirst rd ba) 0x5c000000#32 0xfc7e7fff#32 ∧
    HasEncoding (.bmask rd ba) 0x54000000#32 0xfc7e7fff#32 ∧
    (∀ x, s.b[ba] = some x →
      exec (.bpfx rd ba) s =
        .next { s with a := s.a.set rd (some x.pfx), status := { s.status with err := .none } } ∧
      exec (.bfirst rd ba) s =
        .next { s with a := s.a.set rd (some x.pfx), status := { s.status with err := .none } } ∧
      exec (.bmask rd ba) s =
        .next { s with a := s.a.set rd (some x.mask), status := { s.status with err := .none } }) ∧
    (s.b[ba] = none →
      exec (.bpfx rd ba) s = .next (recordFault s 4 (encode (.bpfx rd ba))) ∧
      exec (.bfirst rd ba) s = .next (recordFault s 4 (encode (.bfirst rd ba))) ∧
      exec (.bmask rd ba) s = .next (recordFault s 4 (encode (.bmask rd ba))))

/-- R144, R147: BLEN writes the n of which the block's mask is the mask, and not V; of an invalid register it faults. -/
def Obligations.BlenWritesLength : Prop :=
  ∀ (s : State) (rd : Fin 8) (ba : Fin 4), s.status.fault = false →
    HasEncoding (.blen rd ba) 0x58000000#32 0xfc7e7fff#32 ∧
    (∀ x n, s.b[ba] = some x → n ≤ 128 → x.mask = maskFromBits n →
      exec (.blen rd ba) s =
        .next { s with a := s.a.set rd (some (BitVec.ofNat 128 n)), status := { s.status with err := .none } }) ∧
    (s.b[ba] = none → exec (.blen rd ba) s = .next (recordFault s 4 (encode (.blen rd ba))))

/-- R149: BLAST writes prefix OR NOT mask; for a block with its invariant and length n that is `prefix + 2^(128-n) - 1`,
without overflow. -/
def Obligations.BlastWritesLast : Prop :=
  ∀ (s : State) (rd : Fin 8) (ba : Fin 4), s.status.fault = false →
    HasEncoding (.blast rd ba) 0x60000000#32 0xfc7e7fff#32 ∧
    (∀ x, s.b[ba] = some x → ∃ v : Word,
      (∀ k < 128, v.getLsbD k = (x.pfx.getLsbD k || !x.mask.getLsbD k)) ∧
      (x.Inv → ∀ n ≤ 128, x.mask = maskFromBits n → v.toNat = x.pfx.toNat + (2 ^ (128 - n) - 1)) ∧
      exec (.blast rd ba) s =
        .next { s with a := s.a.set rd (some v), status := { s.status with err := .none } }) ∧
    (s.b[ba] = none → exec (.blast rd ba) s = .next (recordFault s 4 (encode (.blast rd ba))))

/-- R150, R151: BSIZE writes 0 with OVF clear for /128, 0 with OVF set for /0, and `2^(128-n)` with OVF clear between; of an
invalid register it faults. -/
def Obligations.BsizeWritesSize : Prop :=
  ∀ (s : State) (rd : Fin 8) (ba : Fin 4), s.status.fault = false →
    HasEncoding (.bsize rd ba) 0x64000000#32 0xfc7e7fff#32 ∧
    (∀ x n, s.b[ba] = some x → n ≤ 128 → x.mask = maskFromBits n → ∃ (c : Word) (o : Bool),
      (n = 128 → c.toNat = 0 ∧ o = false) ∧ (n = 0 → c.toNat = 0 ∧ o = true) ∧
      (1 ≤ n → n ≤ 127 → c.toNat = 2 ^ (128 - n) ∧ o = false) ∧
      exec (.bsize rd ba) s =
        .next { s with a := s.a.set rd (some c), status := { s.status with err := .none, ovf := o } }) ∧
    (s.b[ba] = none → exec (.bsize rd ba) s = .next (recordFault s 4 (encode (.bsize rd ba))))

/-- THE MODEL'S CHOICE (log entry 5): in a register whose mask is not contiguous, which R24 excludes and no run reaches, the
commands that need the length complete all the same, with a value that no rule states. -/
def Obligations.LengthReadersComplete : Prop :=
  ∀ (s : State) (ba : Fin 4) (x : Block), s.status.fault = false → s.b[ba] = some x →
    (∀ rd : Fin 8, ∃ v, exec (.blen rd ba) s =
      .next { s with a := s.a.set rd (some v), status := { s.status with err := .none } }) ∧
    (∀ rd : Fin 8, ∃ c o, exec (.bsize rd ba) s =
      .next { s with a := s.a.set rd (some c), status := { s.status with err := .none, ovf := o } }) ∧
    (∀ (bb : Fin 4) y, s.b[bb] = some y → ∃ r, exec (.bcmp ba bb) s =
      .next { s with status := { s.status with err := .none, cmp := r } }) ∧
    (∀ j : Fin 2, ∃ e, exec (.itinit j ba) s =
      .next { s with
        it := s.it.set j (some { origin := x.pfx, cur := { v := 0, o := false }, limit := e })
        status := { s.status with err := .none } })

/-! ## Comparison and containment -/

/-- R170, R171: BCMP of two blocks of lengths n and l orders them by prefix, as numbers, then by ascending length; an invalid
operand faults INVALID_BLOCK. THE MODEL'S CHOICE (log entry 18): one corner case of R171 orders a pair the other way round than
R170 and the rest of the spec do, and this follows R170. -/
def Obligations.BcmpOrdersBlocks : Prop :=
  ∀ (s : State) (ba bb : Fin 4), s.status.fault = false →
    HasEncoding (.bcmp ba bb) 0x80000000#32 0xfffe1fff#32 ∧
    (∀ x y n l, s.b[ba] = some x → s.b[bb] = some y → n ≤ 128 → l ≤ 128 → x.mask = maskFromBits n →
      y.mask = maskFromBits l → ∃ r : CmpCode,
        (r = .less ↔ x.pfx.toNat < y.pfx.toNat ∨ (x.pfx.toNat = y.pfx.toNat ∧ n < l)) ∧
        (r = .greater ↔ y.pfx.toNat < x.pfx.toNat ∨ (x.pfx.toNat = y.pfx.toNat ∧ l < n)) ∧
        (r = .equal ↔ x.pfx.toNat = y.pfx.toNat ∧ n = l) ∧
        exec (.bcmp ba bb) s = .next { s with status := { s.status with err := .none, cmp := r } }) ∧
    (s.b[ba] = none ∨ s.b[bb] = none → exec (.bcmp ba bb) s = .next (recordFault s 4 (encode (.bcmp ba bb))))

/-- R152, R174: on block values with their invariant the order is a strict total order whose EQ is structural equality. -/
def Obligations.OrderIsStrictTotal : Prop :=
  (∀ x y : Block, x.Inv → y.Inv → (blockOrder x y = .eq ↔ x = y) ∧ (blockOrder x y = .lt ↔ blockOrder y x = .gt)) ∧
  (∀ x y z : Block, x.Inv → y.Inv → z.Inv → blockOrder x y = .lt → blockOrder y z = .lt → blockOrder x z = .lt)

/-- R172, R173: BCONT sets C exactly when `(a & mask) = prefix`; A[rs1] is checked before the block. -/
def Obligations.BcontTestsContainment : Prop :=
  ∀ (s : State) (ba : Fin 4) (rs1 : Fin 8), s.status.fault = false →
    HasEncoding (.bcont ba rs1) 0x84000000#32 0xff8e7fff#32 ∧
    (∀ (addr : Word) (x : Block), s.a[rs1] = some addr → s.b[ba] = some x →
      exec (.bcont ba rs1) s =
        .next { s with status := { s.status with err := .none, c := decide (addr &&& x.mask = x.pfx) } }) ∧
    (s.a[rs1] = none → exec (.bcont ba rs1) s = .next (recordFault s 3 (encode (.bcont ba rs1)))) ∧
    (s.a[rs1] ≠ none → s.b[ba] = none → exec (.bcont ba rs1) s = .next (recordFault s 4 (encode (.bcont ba rs1))))

/-- R175: a block contains exactly the addresses from its first to its last, both ends included, and neither neighbour. -/
def Obligations.ContainmentIsTheRange : Prop :=
  ∀ x : Block, x.Inv →
    (∀ addr : Word, blockContains x addr = true ↔
      x.pfx.toNat ≤ addr.toNat ∧ addr.toNat ≤ (x.pfx ||| ~~~x.mask).toNat) ∧
    blockContains x x.pfx = true ∧ blockContains x (x.pfx ||| ~~~x.mask) = true ∧
    (0 < x.pfx.toNat → blockContains x (x.pfx - 1) = false) ∧
    ((x.pfx ||| ~~~x.mask).toNat < 2 ^ 128 - 1 → blockContains x ((x.pfx ||| ~~~x.mask) + 1) = false)

/-! ## Iterators -/

/-- R180, R181: `inc` adds one to every pair below 2^128 and `dec` takes one from every pair that is not zero. -/
def Obligations.PairArithmeticCounts : Prop :=
  (∀ p : Pair, p.val < 2 ^ 128 → p.inc.val = p.val + 1) ∧
  (∀ p : Pair, 1 ≤ p.val → ∃ q, p.dec = some q ∧ q.val = p.val - 1)

/-- R182, R183: ITINIT from a block of length n sets the origin to its prefix, the cursor to `(0, false)` and the limit to the
pair of value `2^(128-n)`, for every n from 0 to 128, whatever the iterator held; of an invalid block it faults. -/
def Obligations.ItinitStartsIterator : Prop :=
  ∀ (s : State) (j : Fin 2) (ba : Fin 4), s.status.fault = false →
    HasEncoding (.itinit j ba) 0xa0000000#32 0xfffe6fff#32 ∧
    (∀ x n, s.b[ba] = some x → n ≤ 128 → x.mask = maskFromBits n → ∃ e : Pair, e.val = 2 ^ (128 - n) ∧
      exec (.itinit j ba) s =
        .next { s with
          it := s.it.set j (some { origin := x.pfx, cur := { v := 0, o := false }, limit := e })
          status := { s.status with err := .none } }) ∧
    (s.b[ba] = none → exec (.itinit j ba) s = .next (recordFault s 4 (encode (.itinit j ba))))

/-- R184, R185: ITNEXT of an iterator that is not exhausted writes `origin + cur.v`, advances the cursor by one and sets V;
of an exhausted one it clears V and changes nothing else but ERR. -/
def Obligations.ItnextYieldsOrEnds : Prop :=
  ∀ (s : State) (rd : Fin 8) (j : Fin 2), s.status.fault = false →
    HasEncoding (.itnext rd j) 0xa4000000#32 0xfc7fefff#32 ∧
    (∀ x : Iter, s.it[j] = some x → x.cur ≠ x.limit → ∃ c : Pair,
      (x.cur.val < 2 ^ 128 → c.val = x.cur.val + 1) ∧
      exec (.itnext rd j) s =
        .next { s with
          a := s.a.set rd (some (x.origin + x.cur.v))
          it := s.it.set j (some { x with cur := c })
          status := { s.status with err := .none, v := true } }) ∧
    (∀ x : Iter, s.it[j] = some x → x.cur = x.limit →
      exec (.itnext rd j) s = .next { s with status := { s.status with err := .none, v := false } }) ∧
    (s.it[j] = none → exec (.itnext rd j) s = .next (recordFault s 5 (encode (.itnext rd j))))

/-- R186: ITLAST, whatever the cursor held, writes `origin + (val(end) - 1)`, leaves the cursor at the end and sets V; of an
invalid iterator it faults. Its end is at least 1 by R28. -/
def Obligations.ItlastJumpsToLast : Prop :=
  ∀ (s : State) (rd : Fin 8) (j : Fin 2), s.status.fault = false →
    HasEncoding (.itlast rd j) 0xa8000000#32 0xfc7fefff#32 ∧
    (∀ x : Iter, s.it[j] = some x → 1 ≤ x.limit.val →
      exec (.itlast rd j) s =
        .next { s with
          a := s.a.set rd (some (x.origin + BitVec.ofNat 128 (x.limit.val - 1)))
          it := s.it.set j (some { x with cur := x.limit })
          status := { s.status with err := .none, v := true } }) ∧
    (s.it[j] = none → exec (.itlast rd j) s = .next (recordFault s 5 (encode (.itlast rd j))))

/-- R181 with 93_implementation_defined.md item 5 (log entry 6): `dec` of `(0, false)` has no value, and the one command that
could apply it refuses, where its end is `(0, false)`, which R28 excludes. -/
def Obligations.ItlastRefusesZeroEnd : Prop :=
  Pair.dec { v := 0, o := false } = none ∧
  ∀ (s : State) (rd : Fin 8) (j : Fin 2) (x : Iter), s.status.fault = false → s.it[j] = some x → x.limit.val = 0 →
    exec (.itlast rd j) s = .refused .decOfZero

/-- R187: in an iterator with its invariant the address of a step is the exact sum: `add128` does not wrap. -/
def Obligations.IteratorAddressesNeverWrap : Prop :=
  ∀ (x : Iter) (addr : Word) (c : Pair), x.Inv → iterStep x = some (addr, c) →
    x.cur.o = false ∧ addr.toNat = x.origin.toNat + x.cur.val ∧ x.origin.toNat + x.cur.val < 2 ^ 128

/-- R188: after ITINIT from a block of length n, k ITNEXT in a row yield, for every k up to `2^(128-n)`, the addresses prefix,
prefix + 1, ... in ascending order, all in the block; after all `2^(128-n)` of them the next ITNEXT yields nothing; and ITLAST,
at any point on the way, yields the last of them. -/
def Obligations.IteratorEnumeratesTheBlock : Prop :=
  ∀ (s t : State) (rd re : Fin 8) (j : Fin 2) (ba : Fin 4) (x : Block) (n : Nat), s.status.fault = false →
    s.b[ba] = some x → x.Inv → n ≤ 128 → x.mask = maskFromBits n → exec (.itinit j ba) s = .next t →
    ∀ k ≤ 2 ^ (128 - n), ∃ vs u, driveNext rd j k t = some (vs, u) ∧ vs.length = k ∧
      (∀ (m : Nat) (h : m < vs.length), vs[m].toNat = x.pfx.toNat + m ∧ blockContains x vs[m] = true) ∧
      (k = 2 ^ (128 - n) → exec (.itnext rd j) u = .next { u with status := { u.status with err := .none, v := false } }) ∧
      (∃ u' v, exec (.itlast re j) u = .next u' ∧ u'.a[re] = some v ∧ v.toNat = x.pfx.toNat + (2 ^ (128 - n) - 1))
end

