-- ==== Sys2Proof/Laws/Decode.lean ====
section
/-! SUPPORT. What a slice of a masked word, and of an encoded word, is. -/

namespace Sys2Proof.Machine

/-- A slice is below 2 to its width. -/
theorem slice_lt {n : Nat} (v : BitVec n) (hi lo : Nat) : slice v hi lo < 2 ^ (hi - lo + 1) :=
  Nat.mod_lt _ (Nat.two_pow_pos _)

/-- A slice of an AND is the AND of the slices: how a must-be-zero mask (30_encoding.md R76) acts on one field. -/
theorem slice_and {n : Nat} (v m : BitVec n) (hi lo : Nat) :
    slice (v &&& m) hi lo = slice v hi lo &&& slice m hi lo := by
  simp only [slice, BitVec.toNat_and, ← Nat.shiftRight_eq_div_pow, Nat.shiftRight_and_distrib, Nat.and_mod_two_pow]

/-- Bit k of a slice is bit lo + k of the value, inside the slice's width (00_scope.md R9). -/
theorem slice_testBit {n : Nat} (v : BitVec n) (hi lo k : Nat) :
    (slice v hi lo).testBit k = (decide (k < hi - lo + 1) && v.getLsbD (lo + k)) := by
  simp [slice, Nat.testBit_mod_two_pow, Nat.testBit_div_two_pow, BitVec.getLsbD, Nat.add_comm]

/-- A number read as a register index and back, where the field is no wider than the register file. -/
theorem fieldIndex_val {n k : Nat} (h : 0 < n) (hk : k < n) : (fieldIndex n h k).val = k :=
  Nat.mod_eq_of_lt hk

end Sys2Proof.Machine

namespace Sys2Proof

open Sys2Proof.Machine

/-- A word whose opcode has a row and whose unused fields are zero decodes to that row's command (30_encoding.md R79). -/
theorem decode_of_row {w : Cmd} {f : Format} {i : Instr} (hrow : opcodeRow w = some (f, i))
    (hm : w &&& f.mask = BitVec.ofNat 32 (opField w) <<< 26) : decode w = .ok i := by
  unfold decode
  rw [hrow]
  exact if_pos hm

/-- Everything a word that decodes to a command is: its opcode has a row, and the row's mask passes (30_encoding.md R79). -/
theorem decode_ok {w : Cmd} {i : Instr} (h : decode w = .ok i) :
    ∃ f, opcodeRow w = some (f, i) ∧ w &&& f.mask = BitVec.ofNat 32 (opField w) <<< 26 := by
  unfold decode at h
  split at h
  · cases h
  · rename_i f i' hrow
    split at h
    · rename_i hm
      cases h
      exact ⟨f, hrow, hm⟩
    · cases h

/-- A word decodes to nothing by its opcode alone exactly when the opcode has no row. -/
theorem decode_illegalOpcode {w : Cmd} : decode w = .error .illegalOpcode ↔ opcodeRow w = none := by
  unfold decode
  split
  · simp_all
  · rename_i f i hrow
    simp only [hrow, reduceCtorEq, iff_false]
    split <;> simp

/-- A word decodes to nothing by a nonzero unused field exactly when its row's mask fails. -/
theorem decode_reservedField {w : Cmd} : decode w = .error .reservedField ↔
    ∃ f i, opcodeRow w = some (f, i) ∧ w &&& f.mask ≠ BitVec.ofNat 32 (opField w) <<< 26 := by
  unfold decode
  split
  · simp_all
  · rename_i f i hrow
    by_cases hm : w &&& f.mask = BitVec.ofNat 32 (opField w) <<< 26
    · rw [if_pos hm]
      simp only [hrow, Option.some.injEq, Prod.mk.injEq, reduceCtorEq, false_iff, not_exists]
      rintro f' i' ⟨⟨rfl, rfl⟩, hne⟩
      exact hne hm
    · rw [if_neg hm]
      simp only [hrow, true_iff]
      exact ⟨f, i, rfl, hm⟩

end Sys2Proof

namespace Sys2Proof

open Sys2Proof.Machine

/-- Two words with the same nine fields of R71 are the same word. -/
theorem cmd_ext {w w' : Cmd} (hop : slice w 31 26 = slice w' 31 26) (hrd : slice w 25 23 = slice w' 25 23)
    (hrs1 : slice w 22 20 = slice w' 22 20) (hrs2 : slice w 19 17 = slice w' 19 17)
    (hba : slice w 16 15 = slice w' 16 15) (hbb : slice w 14 13 = slice w' 14 13)
    (hit : slice w 12 12 = slice w' 12 12) (hz : slice w 11 8 = slice w' 11 8) (himm : slice w 7 0 = slice w' 7 0) :
    w = w' := by
  apply BitVec.eq_of_toNat_eq
  have h1 := w.isLt
  have h2 := w'.isLt
  simp only [slice] at *
  omega

/-- The fields of a packed word are the numbers packed, each within its field's width (R71). -/
theorem packFields_slices {op rd rs1 rs2 ba bb it imm8 : Nat} (h1 : op < 64) (h2 : rd < 8) (h3 : rs1 < 8) (h4 : rs2 < 8)
    (h5 : ba < 4) (h6 : bb < 4) (h7 : it < 2) (h8 : imm8 < 256) :
    slice (packFields op rd rs1 rs2 ba bb it imm8) 31 26 = op ∧ slice (packFields op rd rs1 rs2 ba bb it imm8) 25 23 = rd ∧
    slice (packFields op rd rs1 rs2 ba bb it imm8) 22 20 = rs1 ∧
    slice (packFields op rd rs1 rs2 ba bb it imm8) 19 17 = rs2 ∧
    slice (packFields op rd rs1 rs2 ba bb it imm8) 16 15 = ba ∧ slice (packFields op rd rs1 rs2 ba bb it imm8) 14 13 = bb ∧
    slice (packFields op rd rs1 rs2 ba bb it imm8) 12 12 = it ∧ slice (packFields op rd rs1 rs2 ba bb it imm8) 11 8 = 0 ∧
    slice (packFields op rd rs1 rs2 ba bb it imm8) 7 0 = imm8 := by
  simp only [slice, packFields, BitVec.toNat_ofNat]
  refine ⟨?_, ?_, ?_, ?_, ?_, ?_, ?_, ?_, ?_⟩ <;> omega

end Sys2Proof
end

