-- ==== Sys2Proof/Laws/State.lean ====
section
/-! SUPPORT. One lemma per field per update of the state, each true by rfl, so that no later proof unfolds a record
update; and reading a register file after a write of it. -/

namespace Sys2Proof.Machine

@[simp] theorem State.writeA_a (s : State) (i : Fin 8) (x : Word) : (s.writeA i x).a = s.a.set i (some x) := rfl
@[simp] theorem State.writeA_b (s : State) (i : Fin 8) (x : Word) : (s.writeA i x).b = s.b := rfl
@[simp] theorem State.writeA_it (s : State) (i : Fin 8) (x : Word) : (s.writeA i x).it = s.it := rfl
@[simp] theorem State.writeA_status (s : State) (i : Fin 8) (x : Word) : (s.writeA i x).status = s.status := rfl
@[simp] theorem State.writeA_fcause (s : State) (i : Fin 8) (x : Word) : (s.writeA i x).fcause = s.fcause := rfl
@[simp] theorem State.writeA_fcmd (s : State) (i : Fin 8) (x : Word) : (s.writeA i x).fcmd = s.fcmd := rfl
@[simp] theorem State.writeA_port (s : State) (i : Fin 8) (x : Word) : (s.writeA i x).port = s.port := rfl
@[simp] theorem State.writeA_replies (s : State) (i : Fin 8) (x : Word) : (s.writeA i x).replies = s.replies := rfl

@[simp] theorem State.writeB_a (s : State) (i : Fin 4) (x : Block) : (s.writeB i x).a = s.a := rfl
@[simp] theorem State.writeB_b (s : State) (i : Fin 4) (x : Block) : (s.writeB i x).b = s.b.set i (some x) := rfl
@[simp] theorem State.writeB_it (s : State) (i : Fin 4) (x : Block) : (s.writeB i x).it = s.it := rfl
@[simp] theorem State.writeB_status (s : State) (i : Fin 4) (x : Block) : (s.writeB i x).status = s.status := rfl
@[simp] theorem State.writeB_fcause (s : State) (i : Fin 4) (x : Block) : (s.writeB i x).fcause = s.fcause := rfl
@[simp] theorem State.writeB_fcmd (s : State) (i : Fin 4) (x : Block) : (s.writeB i x).fcmd = s.fcmd := rfl
@[simp] theorem State.writeB_port (s : State) (i : Fin 4) (x : Block) : (s.writeB i x).port = s.port := rfl
@[simp] theorem State.writeB_replies (s : State) (i : Fin 4) (x : Block) : (s.writeB i x).replies = s.replies := rfl

@[simp] theorem State.writeI_a (s : State) (i : Fin 2) (x : Iter) : (s.writeI i x).a = s.a := rfl
@[simp] theorem State.writeI_b (s : State) (i : Fin 2) (x : Iter) : (s.writeI i x).b = s.b := rfl
@[simp] theorem State.writeI_it (s : State) (i : Fin 2) (x : Iter) : (s.writeI i x).it = s.it.set i (some x) := rfl
@[simp] theorem State.writeI_status (s : State) (i : Fin 2) (x : Iter) : (s.writeI i x).status = s.status := rfl
@[simp] theorem State.writeI_fcause (s : State) (i : Fin 2) (x : Iter) : (s.writeI i x).fcause = s.fcause := rfl
@[simp] theorem State.writeI_fcmd (s : State) (i : Fin 2) (x : Iter) : (s.writeI i x).fcmd = s.fcmd := rfl
@[simp] theorem State.writeI_port (s : State) (i : Fin 2) (x : Iter) : (s.writeI i x).port = s.port := rfl
@[simp] theorem State.writeI_replies (s : State) (i : Fin 2) (x : Iter) : (s.writeI i x).replies = s.replies := rfl

@[simp] theorem State.reply_a (s : State) (x : PortReply) : (s.reply x).a = s.a := rfl
@[simp] theorem State.reply_b (s : State) (x : PortReply) : (s.reply x).b = s.b := rfl
@[simp] theorem State.reply_it (s : State) (x : PortReply) : (s.reply x).it = s.it := rfl
@[simp] theorem State.reply_status (s : State) (x : PortReply) : (s.reply x).status = s.status := rfl
@[simp] theorem State.reply_fcause (s : State) (x : PortReply) : (s.reply x).fcause = s.fcause := rfl
@[simp] theorem State.reply_fcmd (s : State) (x : PortReply) : (s.reply x).fcmd = s.fcmd := rfl
@[simp] theorem State.reply_port (s : State) (x : PortReply) : (s.reply x).port = s.port := rfl
@[simp] theorem State.reply_replies (s : State) (x : PortReply) : (s.reply x).replies = s.replies ++ [x] := rfl

@[simp] theorem State.setErr_a (s : State) (x : ErrorKind) : (s.setErr x).a = s.a := rfl
@[simp] theorem State.setErr_b (s : State) (x : ErrorKind) : (s.setErr x).b = s.b := rfl
@[simp] theorem State.setErr_it (s : State) (x : ErrorKind) : (s.setErr x).it = s.it := rfl
@[simp] theorem State.setErr_fcause (s : State) (x : ErrorKind) : (s.setErr x).fcause = s.fcause := rfl
@[simp] theorem State.setErr_fcmd (s : State) (x : ErrorKind) : (s.setErr x).fcmd = s.fcmd := rfl
@[simp] theorem State.setErr_port (s : State) (x : ErrorKind) : (s.setErr x).port = s.port := rfl
@[simp] theorem State.setErr_replies (s : State) (x : ErrorKind) : (s.setErr x).replies = s.replies := rfl
@[simp] theorem State.setErr_status_err (s : State) (x : ErrorKind) : (s.setErr x).status.err = x := rfl
@[simp] theorem State.setErr_status_v (s : State) (x : ErrorKind) : (s.setErr x).status.v = s.status.v := rfl
@[simp] theorem State.setErr_status_ovf (s : State) (x : ErrorKind) : (s.setErr x).status.ovf = s.status.ovf := rfl
@[simp] theorem State.setErr_status_cmp (s : State) (x : ErrorKind) : (s.setErr x).status.cmp = s.status.cmp := rfl
@[simp] theorem State.setErr_status_c (s : State) (x : ErrorKind) : (s.setErr x).status.c = s.status.c := rfl
@[simp] theorem State.setErr_status_fault (s : State) (x : ErrorKind) : (s.setErr x).status.fault = s.status.fault := rfl

@[simp] theorem State.setV_a (s : State) (x : Bool) : (s.setV x).a = s.a := rfl
@[simp] theorem State.setV_b (s : State) (x : Bool) : (s.setV x).b = s.b := rfl
@[simp] theorem State.setV_it (s : State) (x : Bool) : (s.setV x).it = s.it := rfl
@[simp] theorem State.setV_fcause (s : State) (x : Bool) : (s.setV x).fcause = s.fcause := rfl
@[simp] theorem State.setV_fcmd (s : State) (x : Bool) : (s.setV x).fcmd = s.fcmd := rfl
@[simp] theorem State.setV_port (s : State) (x : Bool) : (s.setV x).port = s.port := rfl
@[simp] theorem State.setV_replies (s : State) (x : Bool) : (s.setV x).replies = s.replies := rfl
@[simp] theorem State.setV_status_err (s : State) (x : Bool) : (s.setV x).status.err = s.status.err := rfl
@[simp] theorem State.setV_status_v (s : State) (x : Bool) : (s.setV x).status.v = x := rfl
@[simp] theorem State.setV_status_ovf (s : State) (x : Bool) : (s.setV x).status.ovf = s.status.ovf := rfl
@[simp] theorem State.setV_status_cmp (s : State) (x : Bool) : (s.setV x).status.cmp = s.status.cmp := rfl
@[simp] theorem State.setV_status_c (s : State) (x : Bool) : (s.setV x).status.c = s.status.c := rfl
@[simp] theorem State.setV_status_fault (s : State) (x : Bool) : (s.setV x).status.fault = s.status.fault := rfl

@[simp] theorem State.setOvf_a (s : State) (x : Bool) : (s.setOvf x).a = s.a := rfl
@[simp] theorem State.setOvf_b (s : State) (x : Bool) : (s.setOvf x).b = s.b := rfl
@[simp] theorem State.setOvf_it (s : State) (x : Bool) : (s.setOvf x).it = s.it := rfl
@[simp] theorem State.setOvf_fcause (s : State) (x : Bool) : (s.setOvf x).fcause = s.fcause := rfl
@[simp] theorem State.setOvf_fcmd (s : State) (x : Bool) : (s.setOvf x).fcmd = s.fcmd := rfl
@[simp] theorem State.setOvf_port (s : State) (x : Bool) : (s.setOvf x).port = s.port := rfl
@[simp] theorem State.setOvf_replies (s : State) (x : Bool) : (s.setOvf x).replies = s.replies := rfl
@[simp] theorem State.setOvf_status_err (s : State) (x : Bool) : (s.setOvf x).status.err = s.status.err := rfl
@[simp] theorem State.setOvf_status_v (s : State) (x : Bool) : (s.setOvf x).status.v = s.status.v := rfl
@[simp] theorem State.setOvf_status_ovf (s : State) (x : Bool) : (s.setOvf x).status.ovf = x := rfl
@[simp] theorem State.setOvf_status_cmp (s : State) (x : Bool) : (s.setOvf x).status.cmp = s.status.cmp := rfl
@[simp] theorem State.setOvf_status_c (s : State) (x : Bool) : (s.setOvf x).status.c = s.status.c := rfl
@[simp] theorem State.setOvf_status_fault (s : State) (x : Bool) : (s.setOvf x).status.fault = s.status.fault := rfl

@[simp] theorem State.setCmp_a (s : State) (x : CmpCode) : (s.setCmp x).a = s.a := rfl
@[simp] theorem State.setCmp_b (s : State) (x : CmpCode) : (s.setCmp x).b = s.b := rfl
@[simp] theorem State.setCmp_it (s : State) (x : CmpCode) : (s.setCmp x).it = s.it := rfl
@[simp] theorem State.setCmp_fcause (s : State) (x : CmpCode) : (s.setCmp x).fcause = s.fcause := rfl
@[simp] theorem State.setCmp_fcmd (s : State) (x : CmpCode) : (s.setCmp x).fcmd = s.fcmd := rfl
@[simp] theorem State.setCmp_port (s : State) (x : CmpCode) : (s.setCmp x).port = s.port := rfl
@[simp] theorem State.setCmp_replies (s : State) (x : CmpCode) : (s.setCmp x).replies = s.replies := rfl
@[simp] theorem State.setCmp_status_err (s : State) (x : CmpCode) : (s.setCmp x).status.err = s.status.err := rfl
@[simp] theorem State.setCmp_status_v (s : State) (x : CmpCode) : (s.setCmp x).status.v = s.status.v := rfl
@[simp] theorem State.setCmp_status_ovf (s : State) (x : CmpCode) : (s.setCmp x).status.ovf = s.status.ovf := rfl
@[simp] theorem State.setCmp_status_cmp (s : State) (x : CmpCode) : (s.setCmp x).status.cmp = x := rfl
@[simp] theorem State.setCmp_status_c (s : State) (x : CmpCode) : (s.setCmp x).status.c = s.status.c := rfl
@[simp] theorem State.setCmp_status_fault (s : State) (x : CmpCode) : (s.setCmp x).status.fault = s.status.fault := rfl

@[simp] theorem State.setC_a (s : State) (x : Bool) : (s.setC x).a = s.a := rfl
@[simp] theorem State.setC_b (s : State) (x : Bool) : (s.setC x).b = s.b := rfl
@[simp] theorem State.setC_it (s : State) (x : Bool) : (s.setC x).it = s.it := rfl
@[simp] theorem State.setC_fcause (s : State) (x : Bool) : (s.setC x).fcause = s.fcause := rfl
@[simp] theorem State.setC_fcmd (s : State) (x : Bool) : (s.setC x).fcmd = s.fcmd := rfl
@[simp] theorem State.setC_port (s : State) (x : Bool) : (s.setC x).port = s.port := rfl
@[simp] theorem State.setC_replies (s : State) (x : Bool) : (s.setC x).replies = s.replies := rfl
@[simp] theorem State.setC_status_err (s : State) (x : Bool) : (s.setC x).status.err = s.status.err := rfl
@[simp] theorem State.setC_status_v (s : State) (x : Bool) : (s.setC x).status.v = s.status.v := rfl
@[simp] theorem State.setC_status_ovf (s : State) (x : Bool) : (s.setC x).status.ovf = s.status.ovf := rfl
@[simp] theorem State.setC_status_cmp (s : State) (x : Bool) : (s.setC x).status.cmp = s.status.cmp := rfl
@[simp] theorem State.setC_status_c (s : State) (x : Bool) : (s.setC x).status.c = x := rfl
@[simp] theorem State.setC_status_fault (s : State) (x : Bool) : (s.setC x).status.fault = s.status.fault := rfl

@[simp] theorem portReset_a (s : State) : (portReset s).a = State.reset.a := rfl
@[simp] theorem portReset_b (s : State) : (portReset s).b = State.reset.b := rfl
@[simp] theorem portReset_it (s : State) : (portReset s).it = State.reset.it := rfl
@[simp] theorem portReset_status (s : State) : (portReset s).status = State.reset.status := rfl
@[simp] theorem portReset_fcause (s : State) : (portReset s).fcause = State.reset.fcause := rfl
@[simp] theorem portReset_fcmd (s : State) : (portReset s).fcmd = State.reset.fcmd := rfl
@[simp] theorem portReset_port (s : State) : (portReset s).port = s.port := rfl
@[simp] theorem portReset_replies (s : State) : (portReset s).replies = s.replies := rfl

/-- After reset every value register is unwritten (10_state.md R37). -/
@[simp] theorem reset_a (r : Fin 8) : State.reset.a[r] = none := by
  simp [State.reset]

/-- After reset every block register is invalid (10_state.md R37). -/
@[simp] theorem reset_b (r : Fin 4) : State.reset.b[r] = none := by
  simp [State.reset]

/-- After reset every iterator register is invalid (10_state.md R37). -/
@[simp] theorem reset_it (j : Fin 2) : State.reset.it[j] = none := by
  simp [State.reset]

/-- A register file read after one register of it was written: the value there, the old value elsewhere. -/
theorem file_get_set {α : Type} {n : Nat} (f : Vector α n) (i k : Fin n) (x : α) :
    (f.set i x)[k] = if i = k then x else f[k] := by
  simp only [Fin.getElem_fin, Vector.getElem_set, Fin.ext_iff]

theorem file_get_set_same {α : Type} {n : Nat} (f : Vector α n) (i : Fin n) (x : α) : (f.set i x)[i] = x := by
  rw [file_get_set, if_pos rfl]

theorem file_get_set_other {α : Type} {n : Nat} (f : Vector α n) (i k : Fin n) (x : α) (h : i ≠ k) :
    (f.set i x)[k] = f[k] := by
  rw [file_get_set, if_neg h]

end Sys2Proof.Machine
end

