-- ==== Sys2Proof/Laws/Ops.lean ====
section
/-! SUPPORT. One lemma per shared operation: everything fault entry, the end of a command, and a checked operand can do. -/

namespace Sys2Proof.Machine

/-- Fault entry outside the faulted state (60_exceptions.md R206). -/
theorem takeFault_first {s : State} (h : s.status.fault = false) (code : FaultCode) (w : Cmd) :
    s.takeFault code w =
      { s with status := { s.status with fault := true }, fcause := faultCode code, fcmd := w } := by
  simp [State.takeFault, h]

/-- In the faulted state the first fault is kept (60_exceptions.md R210). -/
theorem takeFault_faulted {s : State} (h : s.status.fault = true) (code : FaultCode) (w : Cmd) :
    s.takeFault code w = s := by
  simp [State.takeFault, h]

/-- Fault entry touches no register file and nothing of the host's (60_exceptions.md R206). -/
theorem takeFault_keeps (s : State) (code : FaultCode) (w : Cmd) :
    (s.takeFault code w).a = s.a ∧ (s.takeFault code w).b = s.b ∧ (s.takeFault code w).it = s.it ∧
      (s.takeFault code w).port = s.port ∧ (s.takeFault code w).replies = s.replies := by
  unfold State.takeFault
  split <;> simp

/-- Every fault code is one of 1 to 7 (60_exceptions.md R207). -/
theorem faultCode_range (code : FaultCode) : 1 ≤ (faultCode code).toNat ∧ (faultCode code).toNat ≤ 7 := by
  cases code <;> decide

/-- A command in the faulted state is ignored (60_exceptions.md R209). -/
theorem command_faulted {s : State} (h : s.status.fault = true) (i : Instr) (e : Effect) : command i s e = .next s := by
  simp [command, h]

/-- A command outside the faulted state whose pseudocode completes. -/
theorem command_done {s : State} (h : s.status.fault = false) (i : Instr) (s' : State) :
    command i s (.done s') = .next s' := by
  simp [command, h]

/-- A command outside the faulted state that raises a fault (60_exceptions.md R206). -/
theorem command_raise {s : State} (h : s.status.fault = false) (i : Instr) (code : FaultCode) :
    command i s (.raise code) =
      .next { s with status := { s.status with fault := true }, fcause := faultCode code, fcmd := encode i } := by
  simp [command, h, takeFault_first h]

/-- A command outside the faulted state whose case the spec refuses. -/
theorem command_refuse {s : State} (h : s.status.fault = false) (i : Instr) (r : Refusal) :
    command i s (.refuse r) = .refused r := by
  simp [command, h]

/-- Everything a command that answers a next state can have done: nothing while faulted, or its pseudocode, or fault entry. -/
theorem command_next {i : Instr} {s t : State} {e : Effect} (h : command i s e = .next t) :
    (s.status.fault = true ∧ t = s) ∨ (s.status.fault = false ∧ e = .done t) ∨
      (s.status.fault = false ∧ ∃ code, e = .raise code ∧
        t = { s with status := { s.status with fault := true }, fcause := faultCode code, fcmd := encode i }) := by
  cases hf : s.status.fault
  · cases e with
    | done s' =>
      rw [command_done hf] at h
      cases h
      exact .inr (.inl ⟨rfl, rfl⟩)
    | raise code =>
      rw [command_raise hf] at h
      cases h
      exact .inr (.inr ⟨rfl, code, rfl, rfl⟩)
    | refuse r =>
      rw [command_refuse hf] at h
      cases h
  · rw [command_faulted hf] at h
    cases h
    exact .inl ⟨rfl, rfl⟩

/-- A written source register is read (10_state.md R23). -/
theorem withA_written {s : State} {r : Fin 8} {v : Word} (h : s.a[r] = some v) (k : Word → Effect) :
    withA s r k = k v := by
  simp [withA, h]

/-- An unwritten source register raises UNWRITTEN_READ (10_state.md R22). -/
theorem withA_unwritten {s : State} {r : Fin 8} (h : s.a[r] = none) (k : Word → Effect) :
    withA s r k = .raise .unwrittenRead := by
  simp [withA, h]

/-- A valid source block is read. -/
theorem withB_valid {s : State} {r : Fin 4} {x : Block} (h : s.b[r] = some x) (k : Block → Effect) :
    withB s r k = k x := by
  simp [withB, h]

/-- An invalid source block raises INVALID_BLOCK (10_state.md R26). -/
theorem withB_invalid {s : State} {r : Fin 4} (h : s.b[r] = none) (k : Block → Effect) :
    withB s r k = .raise .invalidBlock := by
  simp [withB, h]

/-- A valid iterator is read. -/
theorem withI_valid {s : State} {j : Fin 2} {x : Iter} (h : s.it[j] = some x) (k : Iter → Effect) :
    withI s j k = k x := by
  simp [withI, h]

/-- An invalid iterator raises INVALID_ITER (10_state.md R29). -/
theorem withI_invalid {s : State} {j : Fin 2} (h : s.it[j] = none) (k : Iter → Effect) :
    withI s j k = .raise .invalidIter := by
  simp [withI, h]

/-- Everything a checked value register can lead to. -/
theorem withA_cases {s : State} {r : Fin 8} {k : Word → Effect} {e : Effect} (h : withA s r k = e) :
    (s.a[r] = none ∧ e = .raise .unwrittenRead) ∨ ∃ v, s.a[r] = some v ∧ e = k v := by
  cases hr : s.a[r] with
  | none => exact .inl ⟨rfl, by rw [← h, withA_unwritten hr]⟩
  | some v => exact .inr ⟨v, rfl, by rw [← h, withA_written hr]⟩

/-- Everything a checked block register can lead to. -/
theorem withB_cases {s : State} {r : Fin 4} {k : Block → Effect} {e : Effect} (h : withB s r k = e) :
    (s.b[r] = none ∧ e = .raise .invalidBlock) ∨ ∃ x, s.b[r] = some x ∧ e = k x := by
  cases hr : s.b[r] with
  | none => exact .inl ⟨rfl, by rw [← h, withB_invalid hr]⟩
  | some x => exact .inr ⟨x, rfl, by rw [← h, withB_valid hr]⟩

/-- Everything a checked iterator register can lead to. -/
theorem withI_cases {s : State} {j : Fin 2} {k : Iter → Effect} {e : Effect} (h : withI s j k = e) :
    (s.it[j] = none ∧ e = .raise .invalidIter) ∨ ∃ x, s.it[j] = some x ∧ e = k x := by
  cases hr : s.it[j] with
  | none => exact .inl ⟨rfl, by rw [← h, withI_invalid hr]⟩
  | some x => exact .inr ⟨x, rfl, by rw [← h, withI_valid hr]⟩

end Sys2Proof.Machine
end

