-- ==== Sys2Proof/Laws/Exec.lean ====
section
/-! SUPPORT. Once for all commands: what the checks and pseudocode of a command end in, so that `exec` is `command` of that;
what a shape shared by several commands can end in; and everything one port operation can do. -/

namespace Sys2Proof.Machine

/-- MKMASK and MKMASKR past their operand checks (41_mask.md R102, R103). -/
theorem makeMask_cases (rd : Fin 8) (b : Nat) (s : State) :
    (128 < b ∧ makeMask rd b s = .raise .contract) ∨
      (b ≤ 128 ∧ makeMask rd b s = .done ((s.writeA rd (maskFromBits b)).setErr .none)) := by
  by_cases h : 128 < b
  · exact .inl ⟨h, if_pos h⟩
  · exact .inr ⟨Nat.le_of_not_lt h, if_neg h⟩

/-- CIDRB and CIDRBR past their operand checks (43_cidr_block.md R141, R142). -/
theorem buildFromBits_cases (ba : Fin 4) (p : Word) (b : Nat) (s : State) :
    (128 < b ∧ buildFromBits ba p b s = .done (s.setErr .incorrectBitsRange)) ∨
      (b ≤ 128 ∧ buildFromBits ba p b s = .done ((s.writeB ba (makeBlock p (maskFromBits b))).setErr .none)) := by
  by_cases h : 128 < b
  · exact .inl ⟨h, if_pos h⟩
  · exact .inr ⟨Nat.le_of_not_lt h, if_neg h⟩

/-- The commands of format RR with a total function. -/
theorem unaryA_cases (rd rs1 : Fin 8) (f : Word → Word) (s : State) :
    (s.a[rs1] = none ∧ unaryA rd rs1 f s = .raise .unwrittenRead) ∨
      ∃ v, s.a[rs1] = some v ∧ unaryA rd rs1 f s = .done ((s.writeA rd (f v)).setErr .none) :=
  withA_cases rfl

/-- The commands of format RB with a total function. -/
theorem accessorB_cases (rd : Fin 8) (ba : Fin 4) (f : Block → Word) (s : State) :
    (s.b[ba] = none ∧ accessorB rd ba f s = .raise .invalidBlock) ∨
      ∃ x, s.b[ba] = some x ∧ accessorB rd ba f s = .done ((s.writeA rd (f x)).setErr .none) :=
  withB_cases rfl

/-- One `next()` call (45_iterator.md R184, R185): an exhausted iterator, or an element. -/
theorem deliverNext_cases (rd : Fin 8) (j : Fin 2) (x : Iter) (s : State) :
    (x.cur = x.limit ∧ deliverNext rd j x s = .done ((s.setV false).setErr .none)) ∨
      (x.cur ≠ x.limit ∧ deliverNext rd j x s =
        .done ((((s.writeA rd (x.origin + x.cur.v)).writeI j { x with cur := x.cur.inc }).setV true).setErr .none)) := by
  by_cases h : x.cur = x.limit
  · exact .inl ⟨h, by simp only [deliverNext, iterStep, if_pos h]⟩
  · exact .inr ⟨h, by simp only [deliverNext, iterStep, if_neg h]⟩

/-- What the checks and pseudocode of a command end in, whatever STATUS.FAULT holds. -/
def effectOf (i : Instr) (s : State) : Effect :=
  match i with
  | .mkmask rd imm8 => makeMask rd imm8 s
  | .mkmaskr rd rs1 => withA s rs1 fun v => makeMask rd v.toNat s
  | .masklen rd rs1 => withA s rs1 fun m =>
    match bitsFromMask m with
    | some n => .done (((s.writeA rd (BitVec.ofNat 128 n)).setV true).setErr .none)
    | none => .done ((s.setV false).setErr .none)
  | .oct2u rd rs1 | .u2oct rd rs1 => unaryA rd rs1 bswap128 s
  | .grp2u rd rs1 | .u2grp rd rs1 => unaryA rd rs1 hswap128 s
  | .cidrb ba rs1 imm8 => withA s rs1 fun p => buildFromBits ba p imm8 s
  | .cidrbr ba rs1 rs2 => withA s rs1 fun p => withA s rs2 fun b => buildFromBits ba p b.toNat s
  | .cidrm ba rs1 rs2 => withA s rs1 fun p => withA s rs2 fun m =>
    match bitsFromMask m with
    | none => .done (s.setErr .incorrectMask)
    | some _ => .done ((s.writeB ba (makeBlock p m)).setErr .none)
  | .bpfx rd ba => accessorB rd ba (fun x => x.pfx) s
  | .bmask rd ba => accessorB rd ba (fun x => x.mask) s
  | .blen rd ba => accessorB rd ba (fun x => BitVec.ofNat 128 (blockLen x)) s
  | .bfirst rd ba => accessorB rd ba blockFirst s
  | .blast rd ba => accessorB rd ba blockLast s
  | .bsize rd ba => withB s ba fun x =>
    .done (((s.writeA rd (blockSize x).v).setOvf (blockSize x).o).setErr .none)
  | .bcmp ba bb => withB s ba fun x => withB s bb fun y =>
    .done ((s.setCmp (cmpOfOrdering (blockOrder x y))).setErr .none)
  | .bcont ba rs1 => withA s rs1 fun addr => withB s ba fun x =>
    .done ((s.setC (blockContains x addr)).setErr .none)
  | .itinit j ba => withB s ba fun x =>
    .done ((s.writeI j { origin := x.pfx, cur := { v := 0, o := false }, limit := endPair x }).setErr .none)
  | .itnext rd j => withI s j fun x => deliverNext rd j x s
  | .itlast rd j => withI s j fun x =>
    match x.limit.dec with
    | none => .refuse .decOfZero
    | some c => deliverNext rd j { x with cur := c } (s.writeI j { x with cur := c })

/-- Every command is `command` of its own effect (60_exceptions.md R208). -/
theorem exec_eq_command (i : Instr) (s : State) : exec i s = command i s (effectOf i s) := by
  cases i <;> rfl

/-- Everything a command that answers a next state can have done. -/
theorem exec_next {i : Instr} {s t : State} (h : exec i s = .next t) :
    (s.status.fault = true ∧ t = s) ∨ (s.status.fault = false ∧ effectOf i s = .done t) ∨
      (s.status.fault = false ∧ ∃ code, effectOf i s = .raise code ∧
        t = { s with status := { s.status with fault := true }, fcause := faultCode code, fcmd := encode i }) :=
  command_next (by rw [← exec_eq_command]; exact h)

/-- What `PortRead` leaves alone (20_memory.md R52). -/
theorem portRead_keeps (i : Fin 8) (s : State) :
    (portRead i s).a = s.a ∧ (portRead i s).b = s.b ∧ (portRead i s).it = s.it ∧ (portRead i s).port = s.port := by
  unfold portRead
  split
  · simp
  · have := takeFault_keeps s .portUnwrittenRead 0
    simp_all

/-- Everything one port operation that answers a next state can have done (20_memory.md R51, R52, R54, R230). -/
theorem portStep_next {op : PortOp} {s t : State} (h : portStep op s = .next t) :
    (∃ i v, op = .write i v ∧ t = s.writeA i v) ∨ (∃ i, op = .read i ∧ t = portRead i s) ∨
    (∃ r, (op = .readStatus ∨ op = .readFcause ∨ op = .readFcmd) ∧ t = s.reply r) ∨
    (op = .reset ∧ t = portReset s) ∨
    (∃ w, op = .cmd w ∧ s.status.fault = true ∧ t = s) ∨
    (∃ w e, op = .cmd w ∧ s.status.fault = false ∧ decode w = .error e ∧
      t = { s with status := { s.status with fault := true }, fcause := faultCode (decodeFault e), fcmd := w }) ∨
    (∃ w i, op = .cmd w ∧ s.status.fault = false ∧ decode w = .ok i ∧ exec i s = .next t) := by
  cases op with
  | write i v => cases h; exact .inl ⟨i, v, rfl, rfl⟩
  | read i => cases h; exact .inr (.inl ⟨i, rfl, rfl⟩)
  | readStatus => cases h; exact .inr (.inr (.inl ⟨_, .inl rfl, rfl⟩))
  | readFcause => cases h; exact .inr (.inr (.inl ⟨_, .inr (.inl rfl), rfl⟩))
  | readFcmd => cases h; exact .inr (.inr (.inl ⟨_, .inr (.inr rfl), rfl⟩))
  | reset => cases h; exact .inr (.inr (.inr (.inl ⟨rfl, rfl⟩)))
  | cmd w =>
    simp only [portStep, portCmd] at h
    cases hf : s.status.fault
    · rw [hf] at h
      cases hd : decode w with
      | error e =>
        rw [hd] at h
        cases h
        exact .inr (.inr (.inr (.inr (.inr (.inl ⟨w, e, rfl, rfl, hd, takeFault_first hf _ _⟩)))))
      | ok i =>
        rw [hd] at h
        exact .inr (.inr (.inr (.inr (.inr (.inr ⟨w, i, rfl, rfl, hd, h⟩)))))
    · rw [hf] at h
      cases h
      exact .inr (.inr (.inr (.inr (.inl ⟨w, rfl, rfl, rfl⟩))))

end Sys2Proof.Machine
end

