-- ==== Sys2Proof/Laws/PerInstr.lean ====
section
/-! SUPPORT. Laws of every instruction as text, one lemma per constructor. -/

namespace Sys2Proof.Laws

open Sys2Proof.Machine

/-- The word of a well-formed command is selected by its row of the opcode map: `(w & mask) = match` (30_encoding.md R74). -/
def EncodedFields.Statement (i : Instr) : Prop :=
  i.wellFormed = true → ∃ row ∈ opcodeTable, encode i &&& row.2 = row.1

theorem EncodedFields.mkmask (rd : Fin 8) (imm8 : Nat) : EncodedFields.Statement (.mkmask rd imm8) := by
  intro h
  have him : imm8 < 256 := by
    have := of_decide_eq_true h
    omega
  obtain ⟨h1, h2, h3, h4, h5, h6, h7, h8, h9⟩ :=
    packFields_slices (op := 0x01) (rd := rd) (rs1 := 0) (rs2 := 0) (ba := 0) (bb := 0) (it := 0)
      (imm8 := imm8) (by decide) (by omega) (by omega) (by decide) (by omega) (by decide) (by decide) him
  refine ⟨(0x04000000#32, 0xfc7fff00#32), by decide, ?_⟩
  apply cmd_ext <;> simp only [slice_and, encode, h1, h2, h3, h4, h5, h6, h7, h8, h9] <;> simp [slice]

theorem EncodedFields.mkmaskr (rd : Fin 8) (rs1 : Fin 8) : EncodedFields.Statement (.mkmaskr rd rs1) := by
  intro _
  have h : ∀ (rd : Fin 8) (rs1 : Fin 8), encode (.mkmaskr rd rs1) &&& 0xfc0fffff#32 = 0x08000000#32 := by decide
  exact ⟨(0x08000000#32, 0xfc0fffff#32), by decide, h rd rs1⟩

theorem EncodedFields.masklen (rd : Fin 8) (rs1 : Fin 8) : EncodedFields.Statement (.masklen rd rs1) := by
  intro _
  have h : ∀ (rd : Fin 8) (rs1 : Fin 8), encode (.masklen rd rs1) &&& 0xfc0fffff#32 = 0x0c000000#32 := by decide
  exact ⟨(0x0c000000#32, 0xfc0fffff#32), by decide, h rd rs1⟩

theorem EncodedFields.oct2u (rd : Fin 8) (rs1 : Fin 8) : EncodedFields.Statement (.oct2u rd rs1) := by
  intro _
  have h : ∀ (rd : Fin 8) (rs1 : Fin 8), encode (.oct2u rd rs1) &&& 0xfc0fffff#32 = 0x20000000#32 := by decide
  exact ⟨(0x20000000#32, 0xfc0fffff#32), by decide, h rd rs1⟩

theorem EncodedFields.u2oct (rd : Fin 8) (rs1 : Fin 8) : EncodedFields.Statement (.u2oct rd rs1) := by
  intro _
  have h : ∀ (rd : Fin 8) (rs1 : Fin 8), encode (.u2oct rd rs1) &&& 0xfc0fffff#32 = 0x24000000#32 := by decide
  exact ⟨(0x24000000#32, 0xfc0fffff#32), by decide, h rd rs1⟩

theorem EncodedFields.grp2u (rd : Fin 8) (rs1 : Fin 8) : EncodedFields.Statement (.grp2u rd rs1) := by
  intro _
  have h : ∀ (rd : Fin 8) (rs1 : Fin 8), encode (.grp2u rd rs1) &&& 0xfc0fffff#32 = 0x28000000#32 := by decide
  exact ⟨(0x28000000#32, 0xfc0fffff#32), by decide, h rd rs1⟩

theorem EncodedFields.u2grp (rd : Fin 8) (rs1 : Fin 8) : EncodedFields.Statement (.u2grp rd rs1) := by
  intro _
  have h : ∀ (rd : Fin 8) (rs1 : Fin 8), encode (.u2grp rd rs1) &&& 0xfc0fffff#32 = 0x2c000000#32 := by decide
  exact ⟨(0x2c000000#32, 0xfc0fffff#32), by decide, h rd rs1⟩

theorem EncodedFields.cidrb (ba : Fin 4) (rs1 : Fin 8) (imm8 : Nat) : EncodedFields.Statement (.cidrb ba rs1 imm8) := by
  intro h
  have him : imm8 < 256 := by
    have := of_decide_eq_true h
    omega
  obtain ⟨h1, h2, h3, h4, h5, h6, h7, h8, h9⟩ :=
    packFields_slices (op := 0x10) (rd := 0) (rs1 := rs1) (rs2 := 0) (ba := ba) (bb := 0) (it := 0)
      (imm8 := imm8) (by decide) (by omega) (by omega) (by decide) (by omega) (by decide) (by decide) him
  refine ⟨(0x40000000#32, 0xff8e7f00#32), by decide, ?_⟩
  apply cmd_ext <;> simp only [slice_and, encode, h1, h2, h3, h4, h5, h6, h7, h8, h9] <;> simp [slice]

theorem EncodedFields.cidrbr (ba : Fin 4) (rs1 : Fin 8) (rs2 : Fin 8) : EncodedFields.Statement (.cidrbr ba rs1 rs2) := by
  intro _
  have h : ∀ (ba : Fin 4) (rs1 : Fin 8) (rs2 : Fin 8), encode (.cidrbr ba rs1 rs2) &&& 0xff807fff#32 = 0x44000000#32 := by decide
  exact ⟨(0x44000000#32, 0xff807fff#32), by decide, h ba rs1 rs2⟩

theorem EncodedFields.cidrm (ba : Fin 4) (rs1 : Fin 8) (rs2 : Fin 8) : EncodedFields.Statement (.cidrm ba rs1 rs2) := by
  intro _
  have h : ∀ (ba : Fin 4) (rs1 : Fin 8) (rs2 : Fin 8), encode (.cidrm ba rs1 rs2) &&& 0xff807fff#32 = 0x48000000#32 := by decide
  exact ⟨(0x48000000#32, 0xff807fff#32), by decide, h ba rs1 rs2⟩

theorem EncodedFields.bpfx (rd : Fin 8) (ba : Fin 4) : EncodedFields.Statement (.bpfx rd ba) := by
  intro _
  have h : ∀ (rd : Fin 8) (ba : Fin 4), encode (.bpfx rd ba) &&& 0xfc7e7fff#32 = 0x50000000#32 := by decide
  exact ⟨(0x50000000#32, 0xfc7e7fff#32), by decide, h rd ba⟩

theorem EncodedFields.bmask (rd : Fin 8) (ba : Fin 4) : EncodedFields.Statement (.bmask rd ba) := by
  intro _
  have h : ∀ (rd : Fin 8) (ba : Fin 4), encode (.bmask rd ba) &&& 0xfc7e7fff#32 = 0x54000000#32 := by decide
  exact ⟨(0x54000000#32, 0xfc7e7fff#32), by decide, h rd ba⟩

theorem EncodedFields.blen (rd : Fin 8) (ba : Fin 4) : EncodedFields.Statement (.blen rd ba) := by
  intro _
  have h : ∀ (rd : Fin 8) (ba : Fin 4), encode (.blen rd ba) &&& 0xfc7e7fff#32 = 0x58000000#32 := by decide
  exact ⟨(0x58000000#32, 0xfc7e7fff#32), by decide, h rd ba⟩

theorem EncodedFields.bfirst (rd : Fin 8) (ba : Fin 4) : EncodedFields.Statement (.bfirst rd ba) := by
  intro _
  have h : ∀ (rd : Fin 8) (ba : Fin 4), encode (.bfirst rd ba) &&& 0xfc7e7fff#32 = 0x5c000000#32 := by decide
  exact ⟨(0x5c000000#32, 0xfc7e7fff#32), by decide, h rd ba⟩

theorem EncodedFields.blast (rd : Fin 8) (ba : Fin 4) : EncodedFields.Statement (.blast rd ba) := by
  intro _
  have h : ∀ (rd : Fin 8) (ba : Fin 4), encode (.blast rd ba) &&& 0xfc7e7fff#32 = 0x60000000#32 := by decide
  exact ⟨(0x60000000#32, 0xfc7e7fff#32), by decide, h rd ba⟩

theorem EncodedFields.bsize (rd : Fin 8) (ba : Fin 4) : EncodedFields.Statement (.bsize rd ba) := by
  intro _
  have h : ∀ (rd : Fin 8) (ba : Fin 4), encode (.bsize rd ba) &&& 0xfc7e7fff#32 = 0x64000000#32 := by decide
  exact ⟨(0x64000000#32, 0xfc7e7fff#32), by decide, h rd ba⟩

theorem EncodedFields.bcmp (ba : Fin 4) (bb : Fin 4) : EncodedFields.Statement (.bcmp ba bb) := by
  intro _
  have h : ∀ (ba : Fin 4) (bb : Fin 4), encode (.bcmp ba bb) &&& 0xfffe1fff#32 = 0x80000000#32 := by decide
  exact ⟨(0x80000000#32, 0xfffe1fff#32), by decide, h ba bb⟩

theorem EncodedFields.bcont (ba : Fin 4) (rs1 : Fin 8) : EncodedFields.Statement (.bcont ba rs1) := by
  intro _
  have h : ∀ (ba : Fin 4) (rs1 : Fin 8), encode (.bcont ba rs1) &&& 0xff8e7fff#32 = 0x84000000#32 := by decide
  exact ⟨(0x84000000#32, 0xff8e7fff#32), by decide, h ba rs1⟩

theorem EncodedFields.itinit (it : Fin 2) (ba : Fin 4) : EncodedFields.Statement (.itinit it ba) := by
  intro _
  have h : ∀ (it : Fin 2) (ba : Fin 4), encode (.itinit it ba) &&& 0xfffe6fff#32 = 0xa0000000#32 := by decide
  exact ⟨(0xa0000000#32, 0xfffe6fff#32), by decide, h it ba⟩

theorem EncodedFields.itnext (rd : Fin 8) (it : Fin 2) : EncodedFields.Statement (.itnext rd it) := by
  intro _
  have h : ∀ (rd : Fin 8) (it : Fin 2), encode (.itnext rd it) &&& 0xfc7fefff#32 = 0xa4000000#32 := by decide
  exact ⟨(0xa4000000#32, 0xfc7fefff#32), by decide, h rd it⟩

theorem EncodedFields.itlast (rd : Fin 8) (it : Fin 2) : EncodedFields.Statement (.itlast rd it) := by
  intro _
  have h : ∀ (rd : Fin 8) (it : Fin 2), encode (.itlast rd it) &&& 0xfc7fefff#32 = 0xa8000000#32 := by decide
  exact ⟨(0xa8000000#32, 0xfc7fefff#32), by decide, h rd it⟩

end Sys2Proof.Laws
end

