-- ==== Sys2Proof/Laws/Values.lean ====
section
/-! SUPPORT. The bits and the number of a prefix mask (41_mask.md R100), and when two overflow-flag pairs are equal
(00_scope.md R11). -/

namespace Sys2Proof.Machine

/-- "bit k of the result (k = 0..127) is 1 iff k >= 128 - b" (R100). -/
theorem maskFromBits_bit {b k : Nat} (hb : b ≤ 128) (hk : k < 128) :
    (maskFromBits b).getLsbD k = decide (128 - b ≤ k) := by
  simp only [maskFromBits, Config.maxLen, BitVec.getLsbD_ofNat, Nat.testBit_mul_two_pow, Nat.testBit_two_pow_sub_one, hk,
    decide_true, Bool.true_and]
  by_cases h : 128 - b ≤ k
  · simp [h]
    omega
  · simp [h]

/-- "exact; the result is < 2^128" (R100). -/
theorem maskFromBits_toNat {b : Nat} (hb : b ≤ 128) : (maskFromBits b).toNat = (2 ^ b - 1) * 2 ^ (128 - b) := by
  simp only [maskFromBits, Config.maxLen, BitVec.toNat_ofNat]
  apply Nat.mod_eq_of_lt
  have hp : (2 : Nat) ^ b * 2 ^ (128 - b) = 2 ^ 128 := by
    rw [← Nat.pow_add]
    congr 1
    omega
  have hlt : (2 ^ b - 1) * 2 ^ (128 - b) < 2 ^ b * 2 ^ (128 - b) :=
    Nat.mul_lt_mul_of_pos_right (by have := Nat.two_pow_pos b; omega) (Nat.two_pow_pos _)
  omega

/-- A slice down to bit 0 is zero when every bit in it is (R9). -/
theorem slice_eq_zero_iff (m : Word) (hi : Nat) : slice m hi 0 = 0 ↔ ∀ k ≤ hi, m.getLsbD k = false := by
  constructor
  · intro h k hk
    have ht := slice_testBit m hi 0 k
    rw [h, Nat.zero_testBit, decide_eq_true (by omega), Bool.true_and, Nat.zero_add] at ht
    exact ht.symm
  · intro h
    apply Nat.eq_of_testBit_eq
    intro k
    rw [slice_testBit, Nat.zero_testBit, Nat.zero_add]
    by_cases hk : k ≤ hi
    · rw [h k hk, Bool.and_false]
    · rw [decide_eq_false (by omega), Bool.false_and]

/-- Two pairs of the same value are the same pair (R11). -/
theorem Pair.val_inj {p q : Pair} (h : p.val = q.val) : p = q := by
  obtain ⟨a, o⟩ := p
  obtain ⟨b, o'⟩ := q
  have ha := a.isLt
  have hb := b.isLt
  simp only [Pair.val] at h
  have ho : o = o' := by
    cases o <;> cases o' <;> simp at h ⊢ <;> omega
  subst ho
  have hv : a.toNat = b.toNat := by omega
  rw [BitVec.eq_of_toNat_eq hv]

end Sys2Proof.Machine
end

