-- ==== Sys2Proof/Tests/Slice0.lean ====
section
/-! SUPPORT. Tests. Every expected value is one the spec prints: the examples of 41_mask.md to 45_iterator.md and the
tables of 95_test_vectors.md. After them, for every obligation with hypotheses, a state and operands that meet them. -/

namespace Sys2Proof.Tests

open Sys2Proof Sys2Proof.Machine

/-! ## Well-formedness: an ill-formed term for each check (30_encoding.md R77: `n` from 0 to 255) -/

theorem test_wellFormed_mkmask_bound :
    (Instr.mkmask 0 255).wellFormed = true ∧ (Instr.mkmask 0 256).wellFormed = false := by decide
theorem test_wellFormed_cidrb_bound :
    (Instr.cidrb 0 0 255).wellFormed = true ∧ (Instr.cidrb 0 0 256).wellFormed = false := by decide

/-! ## Decoding and encoding: words the spec prints -/

theorem test_word_mkmask : decode 0x05000040#32 = .ok (.mkmask 2 64) ∧ encode (.mkmask 2 64) = 0x05000040#32 := by decide
theorem test_word_mkmaskr : decode 0x09100000#32 = .ok (.mkmaskr 2 1) ∧ encode (.mkmaskr 2 1) = 0x09100000#32 := by decide
theorem test_word_masklen : decode 0x0e100000#32 = .ok (.masklen 4 1) ∧ encode (.masklen 4 1) = 0x0e100000#32 := by decide
theorem test_word_oct2u : decode 0x20800000#32 = .ok (.oct2u 1 0) ∧ encode (.oct2u 1 0) = 0x20800000#32 := by decide
theorem test_word_u2oct : decode 0x27300000#32 = .ok (.u2oct 6 3) ∧ encode (.u2oct 6 3) = 0x27300000#32 := by decide
theorem test_word_grp2u : decode 0x28800000#32 = .ok (.grp2u 1 0) ∧ encode (.grp2u 1 0) = 0x28800000#32 := by decide
theorem test_word_u2grp : decode 0x2d900000#32 = .ok (.u2grp 3 1) ∧ encode (.u2grp 3 1) = 0x2d900000#32 := by decide
theorem test_word_cidrb : decode 0x40408080#32 = .ok (.cidrb 1 4 128) ∧ encode (.cidrb 1 4 128) = 0x40408080#32 := by decide
theorem test_word_cidrbr : decode 0x442b0000#32 = .ok (.cidrbr 2 2 5) ∧ encode (.cidrbr 2 2 5) = 0x442b0000#32 := by decide
theorem test_word_cidrm : decode 0x48150000#32 = .ok (.cidrm 2 1 2) ∧ encode (.cidrm 2 1 2) = 0x48150000#32 := by decide
theorem test_word_bpfx : decode 0x51000000#32 = .ok (.bpfx 2 0) ∧ encode (.bpfx 2 0) = 0x51000000#32 := by decide
theorem test_word_bmask : decode 0x55800000#32 = .ok (.bmask 3 0) ∧ encode (.bmask 3 0) = 0x55800000#32 := by decide
theorem test_word_blen : decode 0x5a000000#32 = .ok (.blen 4 0) ∧ encode (.blen 4 0) = 0x5a000000#32 := by decide
theorem test_word_bfirst : decode 0x5e800000#32 = .ok (.bfirst 5 0) ∧ encode (.bfirst 5 0) = 0x5e800000#32 := by decide
theorem test_word_blast : decode 0x63000000#32 = .ok (.blast 6 0) ∧ encode (.blast 6 0) = 0x63000000#32 := by decide
theorem test_word_bsize : decode 0x66808000#32 = .ok (.bsize 5 1) ∧ encode (.bsize 5 1) = 0x66808000#32 := by decide
theorem test_word_bcmp : decode 0x80002000#32 = .ok (.bcmp 0 1) ∧ encode (.bcmp 0 1) = 0x80002000#32 := by decide
theorem test_word_bcont : decode 0x84408000#32 = .ok (.bcont 1 4) ∧ encode (.bcont 1 4) = 0x84408000#32 := by decide
theorem test_word_itinit : decode 0xa0009000#32 = .ok (.itinit 1 1) ∧ encode (.itinit 1 1) = 0xa0009000#32 := by decide
theorem test_word_itnext : decode 0xa7001000#32 = .ok (.itnext 6 1) ∧ encode (.itnext 6 1) = 0xa7001000#32 := by decide
theorem test_word_itlast : decode 0xa9800000#32 = .ok (.itlast 3 0) ∧ encode (.itlast 3 0) = 0xa9800000#32 := by decide

/-- 95_test_vectors.md 2.10: the reserved opcodes 0x00, 0x04 and 0x3f. -/
theorem test_word_reserved_opcodes : decode 0x00000000#32 = .error .illegalOpcode ∧
    decode 0x10000000#32 = .error .illegalOpcode ∧ decode 0xfc000000#32 = .error .illegalOpcode := by decide
/-- 95_test_vectors.md 2.10: MKMASK with z[8], CIDRB with bb = 1, MASKLEN with rs2 = 1. -/
theorem test_word_nonzero_unused_fields : decode 0x04000100#32 = .error .reservedField ∧
    decode 0x40002000#32 = .error .reservedField ∧ decode 0x0ca20000#32 = .error .reservedField := by decide
theorem test_table_word : decodeTableWord 32 0x09100000 = some (.mkmaskr 2 1) ∧ decodeTableWord 32 0 = none ∧
    decodeTableWord 40 0x09100000 = none := by decide
/-- The three examples of 30_encoding.md R77. -/
theorem test_asm_examples : asmText (.mkmask 2 64) = "MKMASK a2, 64" ∧ asmText (.cidrb 1 0 32) = "CIDRB b1, a0, 32" ∧
    asmText (.itnext 3 1) = "ITNEXT a3, i1" := by decide

/-! ## One step: what a command writes -/

/-- The next state, where there is one. -/
def nextOf (o : Host.Outcome State Fault Refusal) : Option State :=
  match o with
  | .next t => some t
  | .fault _ => none
  | .refused _ => none

theorem eq_next_of_nextOf {o : Host.Outcome State Fault Refusal} {t : State} (h : nextOf o = some t) : o = .next t := by
  cases o with
  | next u => exact congrArg _ (Option.some.inj h)
  | fault r => cases r
  | refused r => cases h

/-- `A[r]` and STATUS after a command. -/
def afterA (i : Instr) (s : State) (r : Fin 8) : Option (Option Word × BitVec 32) :=
  (nextOf (exec i s)).map fun t => (t.a[r], statusWord t.status)
/-- `B[r]` and STATUS after a command. -/
def afterB (i : Instr) (s : State) (r : Fin 4) : Option (Option Block × BitVec 32) :=
  (nextOf (exec i s)).map fun t => (t.b[r], statusWord t.status)
/-- `I[j]` and STATUS after a command. -/
def afterI (i : Instr) (s : State) (j : Fin 2) : Option (Option Iter × BitVec 32) :=
  (nextOf (exec i s)).map fun t => (t.it[j], statusWord t.status)
/-- FCAUSE, FCMD and STATUS after an operation. -/
def faultAfter (op : PortOp) (s : State) : Option (BitVec 32 × BitVec 32 × BitVec 32) :=
  (nextOf (portStep op s)).map fun t => (t.fcause, t.fcmd, statusWord t.status)

/-- Reset, then `PortWrite a0 = v`. -/
def a0 (v : Word) : State := State.reset.writeA 0 v
/-- Reset, then `PortWrite a1 = v` and `PortWrite a2 = u`. -/
def a1a2 (v u : Word) : State := (State.reset.writeA 1 v).writeA 2 u
/-- 2001:db8::/32 in B0: the example of 43_cidr_block.md R141. -/
def block32 : Block := { pfx := 0x20010db8000000000000000000000000#128, mask := 0xffffffff000000000000000000000000#128 }
/-- The /48 block of the same prefix. -/
def block48 : Block := { pfx := 0x20010db8000000000000000000000000#128, mask := 0xffffffffffff00000000000000000000#128 }
/-- The /16 block of 95_test_vectors.md 2.7, row 3. -/
def block16 : Block := { pfx := 0x20010000000000000000000000000000#128, mask := 0xffff0000000000000000000000000000#128 }
/-- The /126 block of 45_iterator.md R183. -/
def block126 : Block := { pfx := 0x20010db8000000000000000000000000#128, mask := 0xfffffffffffffffffffffffffffffffc#128 }
/-- The whole space. -/
def block0 : Block := { pfx := 0#128, mask := 0#128 }
/-- One address. -/
def block128 : Block :=
  { pfx := 0x20010db8000000000000000000000001#128, mask := 0xffffffffffffffffffffffffffffffff#128 }
/-- Reset with `x` in B0 and `y` in B1. -/
def b0b1 (x y : Block) : State := (State.reset.writeB 0 x).writeB 1 y

theorem test_mkmask_64 :
    afterA (.mkmask 0 64) State.reset 0 = some (some 0xffffffffffffffff0000000000000000#128, 0) := by decide
theorem test_mkmask_129_faults : faultAfter (.cmd 0x04000081#32) State.reset = some (6, 0x04000081#32, 0x80#32) := by decide
theorem test_mkmaskr_32 : afterA (.mkmaskr 2 1) (a1a2 0x20#128 0#128) 2 =
    some (some 0xffffffff000000000000000000000000#128, 0) := by decide
/-- The whole value is the length, not its low byte (95_test_vectors.md 2.1). -/
theorem test_mkmaskr_high_bit_faults :
    faultAfter (.cmd 0x08800000#32) (a0 0x80000000000000000000000000000000#128) = some (6, 0x08800000#32, 0x80#32) := by decide
theorem test_masklen_48 :
    afterA (.masklen 1 0) (a0 0xffffffffffff00000000000000000000#128) 1 = some (some 48#128, 4#32) := by decide
theorem test_masklen_gap_keeps :
    afterA (.masklen 0 0) (a0 0x80000000000000000000000000000001#128) 0 =
      some (some 0x80000000000000000000000000000001#128, 0) := by decide
theorem test_oct2u_in_place : afterA (.oct2u 0 0) (a0 0x000102030405060708090a0b0c0d0e0f#128) 0 =
    some (some 0x0f0e0d0c0b0a09080706050403020100#128, 0) := by decide
theorem test_u2oct_address : afterA (.u2oct 2 1) (a1a2 0x20010db8000000000000000000000001#128 0#128) 2 =
    some (some 0x010000000000000000000000b80d0120#128, 0) := by decide
theorem test_grp2u_address : afterA (.grp2u 1 0) (a0 0x0001000000000000000000000db82001#128) 1 =
    some (some 0x20010db8000000000000000000000001#128, 0) := by decide
theorem test_u2grp_bytes : afterA (.u2grp 1 0) (a0 0x000102030405060708090a0b0c0d0e0f#128) 1 =
    some (some 0x0e0f0c0d0a0b08090607040502030001#128, 0) := by decide
theorem test_cidrb_32 :
    afterB (.cidrb 0 1 32) (a1a2 0x20010db8123400000000000000000001#128 0#128) 0 = some (some block32, 0) := by decide
theorem test_cidrb_129_keeps :
    afterB (.cidrb 0 0 129) ((a0 0#128).writeB 0 block32) 0 = some (some block32, 1#32) := by decide
theorem test_cidrbr_48 :
    afterB (.cidrbr 1 1 2) (a1a2 0x20010db8000000000000000000000000#128 48#128) 1 = some (some block48, 0) := by decide
theorem test_cidrbr_whole_value :
    afterB (.cidrbr 0 1 2) (a1a2 0#128 0x10000000000000000000000000000040#128) 0 = some (none, 1#32) := by decide
theorem test_cidrm_32 : afterB (.cidrm 2 1 2)
    (a1a2 0x20010db8ffff00000000000000000000#128 0xffffffff000000000000000000000000#128) 2 = some (some block32, 0) := by
  decide
theorem test_cidrm_gap_keeps :
    afterB (.cidrm 0 1 2) ((a1a2 0#128 0xffff0000ffff0000ffff0000ffff0000#128).writeB 0 block32) 0 =
      some (some block32, 2#32) := by decide
theorem test_bpfx : afterA (.bpfx 2 0) (b0b1 block32 block48) 2 =
    some (some 0x20010db8000000000000000000000000#128, 0) := by decide
theorem test_bmask : afterA (.bmask 3 0) (b0b1 block32 block48) 3 =
    some (some 0xffffffff000000000000000000000000#128, 0) := by decide
theorem test_blen : afterA (.blen 4 0) (b0b1 block32 block48) 4 = some (some 32#128, 0) := by decide
theorem test_bfirst : afterA (.bfirst 5 0) (b0b1 block32 block48) 5 =
    some (some 0x20010db8000000000000000000000000#128, 0) := by decide
theorem test_blast : afterA (.blast 6 0) (b0b1 block32 block48) 6 =
    some (some 0x20010db8ffffffffffffffffffffffff#128, 0) := by decide
theorem test_bsize_0_sets_ovf : afterA (.bsize 1 0) (b0b1 block0 block128) 1 = some (some 0#128, 8#32) := by decide
theorem test_bsize_32 : afterA (.bsize 7 0) (b0b1 block32 block48) 7 =
    some (some 0x00000001000000000000000000000000#128, 0) := by decide
theorem test_bcmp_shorter_first : afterA (.bcmp 0 1) (b0b1 block32 block48) 0 = some (none, 0x10#32) := by decide
/-- 95_test_vectors.md 2.7, row 3: CMP = 2, against a corner case of R171 (log entry 18). -/
theorem test_bcmp_prefix_first : afterA (.bcmp 0 1) (b0b1 block48 block16) 0 = some (none, 0x20#32) := by decide
theorem test_bcont_last :
    afterA (.bcont 0 1) ((b0b1 block32 block48).writeA 1 0x20010db8ffffffffffffffffffffffff#128) 0 =
      some (none, 0x40#32) := by decide
theorem test_bcont_past_last :
    afterA (.bcont 0 1) ((b0b1 block32 block48).writeA 1 0x20010db9000000000000000000000000#128) 0 =
      some (none, 0) := by decide
theorem test_itinit_126 : afterI (.itinit 0 0) (b0b1 block126 block128) 0 =
    some (some { origin := 0x20010db8000000000000000000000000#128, cur := ⟨0, false⟩, limit := ⟨4, false⟩ }, 0) := by
  decide
/-- The iterator of a /128 has one element (45_iterator.md R182). -/
theorem test_itinit_128 : afterI (.itinit 1 1) (b0b1 block126 block128) 1 =
    some (some { origin := 0x20010db8000000000000000000000001#128, cur := ⟨0, false⟩, limit := ⟨1, false⟩ }, 0) := by
  decide

/-- Reset with `x` in I0. -/
def i0 (x : Iter) : State := State.reset.writeI 0 x
/-- An iterator of the whole space, its cursor at the last address. -/
def iterAll (cur : Pair) : Iter := { origin := 0#128, cur := cur, limit := ⟨0, true⟩ }
/-- An iterator of `block126` with its cursor at `k`. -/
def iter126 (k : Word) : Iter :=
  { origin := 0x20010db8000000000000000000000000#128, cur := ⟨k, false⟩, limit := ⟨4, false⟩ }

/-- 45_iterator.md R185: the last address of a /0 moves the cursor to `(0, true)`. -/
theorem test_itnext_crosses :
    (nextOf (exec (.itnext 1 0) (i0 (iterAll ⟨BitVec.allOnes 128, false⟩)))).map (fun t => (t.a[1], t.it[0], t.status.v)) =
      some (some (BitVec.allOnes 128), some (iterAll ⟨0, true⟩), true) := by decide
theorem test_itnext_exhausted : afterA (.itnext 1 0) (i0 (iter126 4)) 1 = some (none, 0) := by decide
/-- 95_test_vectors.md 2.9: after one ITNEXT the last address of the /126 all the same. -/
theorem test_itlast_126 :
    (nextOf (exec (.itlast 1 0) (i0 (iter126 1)))).map (fun t => (t.a[1], t.it[0], t.status.v)) =
      some (some 0x20010db8000000000000000000000003#128, some (iter126 4), true) := by decide
theorem test_itlast_0 :
    (nextOf (exec (.itlast 2 0) (i0 (iterAll ⟨0, false⟩)))).map (fun t => (t.a[2], t.it[0])) =
      some (some (BitVec.allOnes 128), some (iterAll ⟨0, true⟩)) := by decide

/-! ## The order of checks and the faulted state (95_test_vectors.md 2.10 and program P5) -/

theorem test_fault_decode_before_operands : faultAfter (.cmd 0x0ca20000#32) (a0 0#128) = some (2, 0x0ca20000#32, 0x80#32) := by
  decide
theorem test_fault_value_before_block : faultAfter (.cmd 0x84508000#32) (a0 0#128) = some (3, 0x84508000#32, 0x80#32) := by
  decide
theorem test_fault_invalid_block : faultAfter (.cmd 0x80002000#32) (a0 0#128) = some (4, 0x80002000#32, 0x80#32) := by
  decide
theorem test_fault_invalid_iter : faultAfter (.cmd 0xa4801000#32) (a0 0#128) = some (5, 0xa4801000#32, 0x80#32) := by
  decide
theorem test_fault_port_read : faultAfter (.read 3) (a0 0#128) = some (7, 0, 0x80#32) := by decide

/-- Program P5 after its first command. -/
def faulted : State := recordFault State.reset 3 0x40000020#32

theorem test_faulted_ignores_command : nextOf (portStep (.cmd 0x04800008#32) faulted) = some faulted := by decide
theorem test_faulted_read_keeps_first : faultAfter (.read 1) faulted = some (3, 0x40000020#32, 0x80#32) := by decide
theorem test_faulted_write : (nextOf (portStep (.write 1 5#128) faulted)).map (fun t => t.a[1]) = some (some 5#128) := by
  decide
theorem test_reset_leaves_fault : nextOf (portStep .reset faulted) = some State.reset := by decide
/-- A command handed over right after reset is the next thing that a step runs. -/
theorem test_handed_word_runs :
    (nextOf (step (State.reset.withFetchWord 32 0x04000040))).map (fun t => (t.a[0], t.port)) =
      some (some 0xffffffffffffffff0000000000000000#128, []) := by decide
theorem test_reset_answers_zero_status : statusWord State.reset.status = 0 ∧ State.reset.fcause = 0 ∧ State.reset.fcmd = 0 := by
  decide

/-! ## Witnesses: the hypotheses of every obligation that has some are met together

`demo` has in A0 an address, in A1 and A2 the lengths 128 and 129, in A3 and A4 the masks of /0 and /128, in A5 the value 1
(no mask), in A7 the mask of /32, and A6 unwritten; in B0 to B2 a /32, a /0 and a /128, and B3 invalid; in I0 an exhausted
iterator of the whole space and in I1 a fresh one of the /126. -/

def demo : State :=
  let s := (((State.reset.writeA 0 0x20010db8123400000000000000000001#128).writeA 1 128#128).writeA 2 129#128).writeA 3 0#128
  let s := ((s.writeA 4 0xffffffffffffffffffffffffffffffff#128).writeA 5 1#128).writeA 7 0xffffffff000000000000000000000000#128
  let s := ((s.writeB 0 block32).writeB 1 block0).writeB 2 block128
  (s.writeI 0 (iterAll ⟨0, true⟩)).writeI 1 (iter126 0)

theorem mask32 : block32.mask = maskFromBits 32 := by decide
theorem mask0 : block0.mask = maskFromBits 0 := by decide
theorem mask128 : block128.mask = maskFromBits 128 := by decide
theorem mask126 : block126.mask = maskFromBits 126 := by decide
theorem mask48 : block48.mask = maskFromBits 48 := by decide

theorem test_witness_Block_Inv : block32.Inv ∧ block0.Inv ∧ block128.Inv ∧ block126.Inv ∧ block48.Inv :=
  ⟨⟨by decide, 32, by decide, mask32⟩, ⟨by decide, 0, by decide, mask0⟩,
    ⟨by decide, 128, by decide, mask128⟩, ⟨by decide, 126, by decide, mask126⟩,
    ⟨by decide, 48, by decide, mask48⟩⟩
theorem test_witness_Iter_Inv : (iterAll ⟨0, true⟩).Inv ∧ (iter126 0).Inv ∧ (iterAll ⟨BitVec.allOnes 128, false⟩).Inv := by
  unfold Iter.Inv
  decide
theorem test_witness_ContiguousMask : ContiguousMask 0#128 ∧ ContiguousMask 0xffffffffffffffffffffffffffffffff#128 :=
  ⟨⟨0, by decide, by decide⟩, ⟨128, by decide, by decide⟩⟩
/-- 41_mask.md R104: 1 is no mask. -/
theorem test_witness_not_ContiguousMask : ¬ ContiguousMask 1#128 := by
  rintro ⟨n, hn, h⟩
  have key : ∀ k : Fin 129, (1#128 : Word) ≠ maskFromBits k := by decide
  exact key ⟨n, by omega⟩ h

theorem demo_blocks : ∀ r : Fin 4, demo.b[r] = none ∨ demo.b[r] = some block32 ∨ demo.b[r] = some block0 ∨
    demo.b[r] = some block128 := by decide
theorem demo_iters : ∀ j : Fin 2, demo.it[j] = some (iterAll ⟨0, true⟩) ∨ demo.it[j] = some (iter126 0) := by decide
/-- `StepKeepsInvariant`, `StepNeverStops`: a state with the invariant, every kind of register in use; and a step from it. -/
theorem test_witness_State_Inv : demo.Inv := by
  refine ⟨fun r x h => ?_, fun j x h => ?_, fun _ => ⟨by decide, by decide⟩, fun h => ?_, by decide⟩
  · rcases demo_blocks r with e | e | e | e <;> rw [e] at h <;> cases h
    · exact test_witness_Block_Inv.1
    · exact test_witness_Block_Inv.2.1
    · exact test_witness_Block_Inv.2.2.1
  · rcases demo_iters j with e | e <;> rw [e] at h <;> cases h
    · exact test_witness_Iter_Inv.1
    · exact test_witness_Iter_Inv.2.1
  · have hf : demo.status.fault = false := by decide
    rw [hf] at h
    cases h
theorem test_witness_step_from_demo : ∃ t, step demo = .next t :=
  ⟨demo, eq_next_of_nextOf (by decide)⟩

theorem test_witness_DecodeOfEncode : (Instr.cidrb 3 7 255).wellFormed = true ∧ (Instr.itlast 7 1).wellFormed = true := by decide
theorem test_witness_EncodeOfDecode : decode 0x40008020#32 = .ok (.cidrb 1 0 32) := by decide
/-- Each of the three cases of `EveryWordIsOneOfThree` and of `WordsThatAreNoCommandFault` has a word. -/
theorem test_witness_WordsThatAreNoCommandFault : demo.status.fault = false ∧
    (slice 0x4c000000#32 31 26 = 0x13 ∧ slice 0xac000000#32 31 26 = 0x2b ∧ slice 0xfc000000#32 31 26 = 0x3f) ∧
    ((0x04000000#32, 0xfc7fff00#32) ∈ opcodeTable ∧ slice 0x04000000#32 31 26 = slice 0x04000100#32 31 26 ∧
      0x04000100#32 &&& 0xfc7fff00#32 ≠ 0x04000000#32) := by decide
theorem test_witness_StepRunsDecodedCommand : (demo.withFetchWord 32 0x05000040).port = .cmd 0x05000040#32 :: [] ∧
    (demo.withFetchWord 32 0x05000040).status.fault = false ∧ decode 0x05000040#32 = .ok (.mkmask 2 64) := by decide
theorem test_witness_HandedWordRunsNext : demo.status.fault = false ∧ decode 0xa5801000#32 = .ok (.itnext 3 1) := by decide
theorem test_witness_IdleStepChangesNothing : demo.port = [] := by decide
theorem test_witness_StepsFollowOrderOfIssue : (demo.withFetchWord 32 0x05000040).port = .cmd 0x05000040#32 :: [] ∧
    ∃ t, step (demo.withFetchWord 32 0x05000040) = .next t :=
  ⟨by decide,
    (demo.writeA 2 0xffffffffffffffff0000000000000000#128).setErr .none, eq_next_of_nextOf (by decide)⟩
theorem test_witness_PortReadReturnsOrFaults : demo.a[0] = some 0x20010db8123400000000000000000001#128 ∧ demo.a[6] = none ∧
    demo.status.fault = false ∧ faulted.a[6] = none ∧ faulted.status.fault = true := by decide
/-- Every value of ERR and CMP that `StatusReadsReturnRegisters` names is a state's. -/
theorem test_witness_StatusReadsReturnRegisters : (demo.setErr .none).status.err = .none ∧
    (demo.setErr .incorrectBitsRange).status.err = .incorrectBitsRange ∧
    (demo.setErr .incorrectMask).status.err = .incorrectMask ∧ (demo.setCmp .equal).status.cmp = .equal ∧
    (demo.setCmp .less).status.cmp = .less ∧ (demo.setCmp .greater).status.cmp = .greater := by decide
theorem test_witness_FaultedStateOnlyResetLeaves : (faulted.writeA 1 5#128).status.fault = true ∧
    (faulted.writeA 1 5#128).a[1] = some 5#128 ∧ PortOp.cmd 0x04800008#32 ≠ .reset := by decide
theorem test_witness_FaultIsStickyAlongRuns : (faulted.withFetchWord 32 0x04800008).status.fault = true ∧
    PortOp.reset ∉ (faulted.withFetchWord 32 0x04800008).port ∧
    Sys2Proof.core.run 1 (faulted.withFetchWord 32 0x04800008) = .next faulted :=
  ⟨by decide, by decide, eq_next_of_nextOf (by decide)⟩
/-- A word for each clause of `ChecksFollowTheOrder`, from `demo` and, for the first, `faulted`. -/
theorem test_witness_ChecksFollowTheOrder : faulted.status.fault = true ∧ demo.status.fault = false ∧
    decode 0x00000000#32 = .error .illegalOpcode ∧ decode 0x04000100#32 = .error .reservedField ∧
    (decode 0x84608000#32 = .ok (.bcont 1 6) ∧ 6 ∈ sourceRegs (.bcont 1 6) ∧ demo.a[6] = none) ∧
    (decode 0x84018000#32 = .ok (.bcont 3 0) ∧ demo.a[0] ≠ none ∧ 3 ∈ sourceBlocks (.bcont 3 0) ∧ demo.b[3] = none) ∧
    (decode 0xa4801000#32 = .ok (.itnext 1 1) ∧ 1 ∈ sourceIters (.itnext 1 1) ∧ State.reset.it[1] = none) ∧
    (decode 0x08a00000#32 = .ok (.mkmaskr 1 2) ∧ demo.a[2] = some 129#128 ∧ 128 < (129#128 : Word).toNat) := by
  decide
theorem test_witness_ChecksFollowTheOrder_none_fails : decode 0x04800080#32 = .ok (.mkmask 1 128) ∧
    (∀ r ∈ sourceRegs (.mkmask 1 128), demo.a[r] ≠ none) ∧ (∀ r ∈ sourceBlocks (.mkmask 1 128), demo.b[r] ≠ none) ∧
    (∀ j ∈ sourceIters (.mkmask 1 128), demo.it[j] ≠ none) ∧ ¬ BreaksContract (.mkmask 1 128) demo := by
  refine ⟨by decide, by simp [sourceRegs], by simp [sourceBlocks], by simp [sourceIters], ?_⟩
  rintro (⟨rd, b, h, hb⟩ | ⟨rd, rs1, v, h, _⟩)
  · cases h
    omega
  · cases h
theorem test_witness_FaultEntryIsPrecise : demo.status.fault = false ∧
    portStep (.read 6) demo = .next ((recordFault demo 7 0).reply .noValue) ∧
    ((recordFault demo 7 0).reply .noValue).status.fault = true :=
  ⟨by decide, eq_next_of_nextOf (by decide), by decide⟩
theorem test_witness_ValueRegisterWriters : portStep (.write 6 5#128) demo = .next (demo.writeA 6 5#128) ∧
    (demo.writeA 6 5#128).a[6] ≠ demo.a[6] :=
  ⟨eq_next_of_nextOf (by decide), by decide⟩
theorem test_witness_BlockRegisterWriters :
    portStep (.cmd 0x40018000#32) demo = .next ((demo.writeB 3 block0).setErr .none) ∧
    ((demo.writeB 3 block0).setErr .none).b[3] ≠ demo.b[3] :=
  ⟨eq_next_of_nextOf (by decide), by decide⟩
theorem test_witness_IteratorRegisterWriters :
    portStep (.cmd 0xa0009000#32) demo = .next ((demo.writeI 1 (iterAll ⟨0, false⟩)).setErr .none) ∧
    ((demo.writeI 1 (iterAll ⟨0, false⟩)).setErr .none).it[1] ≠ demo.it[1] :=
  ⟨eq_next_of_nextOf (by decide +kernel), by decide +kernel⟩
/-- `StatusWritePolicy`, `ErrorsOnlyFromConstruction`, `CommandFrame`: a command that completes, one that reports an error and
one that faults, all from `demo`. -/
theorem test_witness_StatusWritePolicy : demo.status.fault = false ∧
    exec (.bpfx 6 0) demo = .next ((demo.writeA 6 block32.pfx).setErr .none) ∧
    exec (.cidrb 0 0 129) demo = .next (demo.setErr .incorrectBitsRange) ∧
    exec (.cidrm 0 0 5) demo = .next (demo.setErr .incorrectMask) ∧
    exec (.bpfx 6 3) demo = .next (recordFault demo 4 (encode (.bpfx 6 3))) :=
  ⟨by decide, eq_next_of_nextOf (by decide), eq_next_of_nextOf (by decide),
    eq_next_of_nextOf (by decide), eq_next_of_nextOf (by decide)⟩

/-- `MkmaskWritesMask`, `MaskRoundTrip`: the lengths where the clauses meet. -/
theorem test_witness_MkmaskWritesMask : demo.status.fault = false ∧ (Instr.mkmask 0 255).wellFormed = true ∧ 0 ≤ 128 ∧
    128 ≤ 128 ∧ (128 < 129 ∧ 129 ≤ 255) ∧ (128 < 255 ∧ 255 ≤ 255) := by decide
theorem test_witness_MkmaskrWritesMask : demo.status.fault = false ∧
    (demo.a[1] = some 128#128 ∧ (128#128 : Word).toNat ≤ 128) ∧ (demo.a[2] = some 129#128 ∧ 128 < (129#128 : Word).toNat) ∧
    demo.a[6] = none := by decide
theorem test_witness_MasklenValidates : demo.status.fault = false ∧ demo.a[3] = some (maskFromBits 0) ∧
    demo.a[4] = some (maskFromBits 128) ∧ demo.a[5] = some 1#128 ∧ ¬ ContiguousMask 1#128 ∧ demo.a[6] = none :=
  ⟨by decide, by decide, by decide, by decide, test_witness_not_ContiguousMask, by decide⟩
/-- `Oct2uReadsLanesAsOctets`, `U2octWritesOctetsAsLanes`, `Grp2uReadsLanesAsGroups`, `U2grpWritesGroupsAsLanes`,
`ConversionsRoundTrip`. -/
theorem test_witness_Conversions : demo.status.fault = false ∧ demo.a[0] = some 0x20010db8123400000000000000000001#128 ∧
    demo.a[6] = none := by decide
theorem test_witness_CidrbBuildsBlock : demo.status.fault = false ∧
    demo.a[0] = some 0x20010db8123400000000000000000001#128 ∧ 128 ≤ 128 ∧ (128 < 129 ∧ 129 ≤ 255) ∧
    (128 < 255 ∧ 255 ≤ 255) ∧ demo.a[6] = none := by decide
theorem test_witness_CidrbrBuildsBlock : demo.status.fault = false ∧ demo.a[0] = some 0x20010db8123400000000000000000001#128 ∧
    (demo.a[1] = some 128#128 ∧ (128#128 : Word).toNat ≤ 128) ∧ (demo.a[2] = some 129#128 ∧ 128 < (129#128 : Word).toNat) ∧
    demo.a[6] = none := by decide
theorem test_witness_CidrmBuildsBlock : demo.status.fault = false ∧ demo.a[0] = some 0x20010db8123400000000000000000001#128 ∧
    (demo.a[3] = some 0#128 ∧ ContiguousMask 0#128) ∧ (demo.a[5] = some 1#128 ∧ ¬ ContiguousMask 1#128) ∧ demo.a[6] = none :=
  ⟨by decide, by decide, ⟨by decide, test_witness_ContiguousMask.1⟩,
    ⟨by decide, test_witness_not_ContiguousMask⟩, by decide⟩
/-- The accessors, `BlenWritesLength`, `BlastWritesLast`, `BsizeWritesSize`, `ItinitStartsIterator`: a block of each length
where the clauses differ, and an invalid register. -/
theorem test_witness_Accessors : demo.status.fault = false ∧
    (demo.b[0] = some block32 ∧ block32.mask = maskFromBits 32 ∧ block32.Inv) ∧
    (demo.b[1] = some block0 ∧ block0.mask = maskFromBits 0 ∧ block0.Inv) ∧
    (demo.b[2] = some block128 ∧ block128.mask = maskFromBits 128 ∧ block128.Inv) ∧ demo.b[3] = none :=
  ⟨by decide, ⟨by decide, mask32, test_witness_Block_Inv.1⟩,
    ⟨by decide, mask0, test_witness_Block_Inv.2.1⟩, ⟨by decide, mask128, test_witness_Block_Inv.2.2.1⟩,
    by decide⟩
theorem test_witness_BcmpOrdersBlocks : demo.status.fault = false ∧ demo.b[0] = some block32 ∧ demo.b[2] = some block128 ∧
    32 ≤ 128 ∧ block32.mask = maskFromBits 32 ∧ block128.mask = maskFromBits 128 ∧ demo.b[3] = none :=
  ⟨by decide, by decide, by decide, by decide, mask32, mask128, by decide⟩
theorem test_witness_OrderIsStrictTotal : block0.Inv ∧ block32.Inv ∧ block48.Inv ∧ blockOrder block0 block32 = .lt ∧
    blockOrder block32 block48 = .lt :=
  ⟨test_witness_Block_Inv.2.1, test_witness_Block_Inv.1, test_witness_Block_Inv.2.2.2.2, by decide, by decide⟩
theorem test_witness_BcontTestsContainment : demo.status.fault = false ∧
    demo.a[0] = some 0x20010db8123400000000000000000001#128 ∧ demo.b[0] = some block32 ∧ demo.a[6] = none ∧ demo.a[0] ≠ none ∧
    demo.b[3] = none := by decide
theorem test_witness_ContainmentIsTheRange : block32.Inv ∧ 0 < block32.pfx.toNat ∧
    (block32.pfx ||| ~~~block32.mask).toNat < 2 ^ 128 - 1 :=
  ⟨test_witness_Block_Inv.1, by decide, by decide⟩
theorem test_witness_PairArithmeticCounts : Pair.val ⟨BitVec.allOnes 128, false⟩ < 2 ^ 128 ∧ 1 ≤ Pair.val ⟨0, true⟩ := by
  decide
/-- `ItnextYieldsOrEnds`: I1 is not exhausted, I0 is; both registers are invalid after reset. -/
theorem test_witness_ItnextYieldsOrEnds : demo.status.fault = false ∧
    (demo.it[1] = some (iter126 0) ∧ (iter126 0).cur ≠ (iter126 0).limit ∧ (iter126 0).cur.val < 2 ^ 128) ∧
    (demo.it[0] = some (iterAll ⟨0, true⟩) ∧ (iterAll ⟨0, true⟩).cur = (iterAll ⟨0, true⟩).limit) ∧
    State.reset.status.fault = false ∧ State.reset.it[0] = none := by decide
/-- `ItlastJumpsToLast`: an end of 1 or more, and an invalid register. -/
theorem test_witness_ItlastJumpsToLast : (demo.it[1] = some (iter126 0) ∧ 1 ≤ (iter126 0).limit.val) ∧
    (demo.it[0] = some (iterAll ⟨0, true⟩) ∧ 1 ≤ (iterAll ⟨0, true⟩).limit.val) ∧ State.reset.it[0] = none := by decide
theorem test_witness_ItlastRefusesZeroEnd : (i0 { iter126 0 with limit := ⟨0, false⟩ }).status.fault = false ∧
    (i0 { iter126 0 with limit := ⟨0, false⟩ }).it[0] = some { iter126 0 with limit := ⟨0, false⟩ } ∧
    Pair.val ⟨0, false⟩ = 0 := by decide
theorem test_witness_LengthReadersComplete : (b0b1 { pfx := 0, mask := 1 } block128).status.fault = false ∧
    (b0b1 { pfx := 0, mask := 1 } block128).b[0] = some { pfx := 0, mask := 1 } ∧
    (b0b1 { pfx := 0, mask := 1 } block128).b[1] = some block128 ∧ ¬ ContiguousMask 1#128 :=
  ⟨by decide, by decide, by decide, test_witness_not_ContiguousMask⟩
theorem test_witness_IteratorAddressesNeverWrap : (iterAll ⟨BitVec.allOnes 128, false⟩).Inv ∧
    iterStep (iterAll ⟨BitVec.allOnes 128, false⟩) = some (BitVec.allOnes 128, ⟨0, true⟩) :=
  ⟨test_witness_Iter_Inv.2.2, by decide⟩
theorem test_witness_IteratorEnumeratesTheBlock : (b0b1 block126 block128).status.fault = false ∧
    (b0b1 block126 block128).b[0] = some block126 ∧ block126.Inv ∧ 126 ≤ 128 ∧ block126.mask = maskFromBits 126 ∧
    exec (.itinit 0 0) (b0b1 block126 block128) = .next (((b0b1 block126 block128).writeI 0 (iter126 0)).setErr .none) ∧
    0 ≤ 2 ^ (128 - 126) ∧ 4 = 2 ^ (128 - 126) :=
  ⟨by decide, by decide, test_witness_Block_Inv.2.2.2.1, by decide, mask126,
    eq_next_of_nextOf (by decide +kernel), by decide, by decide⟩

end Sys2Proof.Tests
end

namespace Sys2Proof.Machine

/-! ## The mask validator is exact (41_mask.md R101) -/

/-- The scan of R101 stops between its start and 128, past 1-bits only, at a 0-bit or at the end. -/
theorem countLeadingOnes_spec (m : Word) (fuel n : Nat) (hn : n + fuel = 128) :
    n ≤ countLeadingOnes m fuel n ∧ countLeadingOnes m fuel n ≤ 128 ∧
      (∀ i, n ≤ i → i < countLeadingOnes m fuel n → m.getLsbD (127 - i) = true) ∧
      (countLeadingOnes m fuel n < 128 → m.getLsbD (127 - countLeadingOnes m fuel n) = false) := by
  induction fuel generalizing n with
  | zero =>
    simp only [countLeadingOnes]
    exact ⟨le_rfl, by omega, by omega, by omega⟩
  | succ fuel ih =>
    cases hbit : m.getLsbD (127 - n) with
    | false =>
      simp only [countLeadingOnes, hbit, Bool.false_eq_true, if_false]
      exact ⟨le_rfl, by omega, by omega, fun _ => trivial⟩
    | true =>
      simp only [countLeadingOnes, hbit, if_true]
      obtain ⟨hlo, hhi, hones, hzero⟩ := ih (n + 1) (by omega)
      refine ⟨by omega, hhi, fun i hi hlt => ?_, hzero⟩
      rcases Nat.eq_or_lt_of_le hi with rfl | hi
      · exact hbit
      · exact hones i hi hlt

/-- A word whose bit `k` is 1 exactly from `128 - n` up is the mask of `n` (R100). -/
theorem eq_maskFromBits_of_bits {m : Word} {n : Nat} (hn : n ≤ 128)
    (h : ∀ k < 128, m.getLsbD k = decide (128 - n ≤ k)) : m = maskFromBits n := by
  apply BitVec.eq_of_getLsbD_eq
  intro k hk
  rw [h k hk, maskFromBits_bit hn hk]

/-- The validator answers only the length of the mask it was given (R101). -/
theorem eq_maskFromBits_of_bitsFromMask {m : Word} {n : Nat} (h : bitsFromMask m = some n) :
    n ≤ 128 ∧ m = maskFromBits n := by
  obtain ⟨-, hle, hones, hzero⟩ := countLeadingOnes_spec m 128 0 rfl
  have hcount : countLeadingOnes m 128 0 = n ∧ ∀ k < 127 - n, m.getLsbD k = false := by
    simp only [bitsFromMask] at h
    split at h
    · next h128 =>
      cases h
      exact ⟨h128, by omega⟩
    · split at h
      · next hrest =>
        cases h
        refine ⟨rfl, fun k hk => ?_⟩
        rcases hrest with h127 | hslice
        · omega
        · exact (slice_eq_zero_iff _ _).mp hslice k (by omega)
      · cases h
  obtain ⟨rfl, hlow⟩ := hcount
  refine ⟨hle, eq_maskFromBits_of_bits hle fun k hk => ?_⟩
  by_cases htop : 128 - countLeadingOnes m 128 0 ≤ k
  · rw [decide_eq_true htop]
    simpa [show 127 - (127 - k) = k by omega] using hones (127 - k) (Nat.zero_le _) (by omega)
  · rw [decide_eq_false htop]
    rcases Nat.eq_or_lt_of_le (show k ≤ 127 - countLeadingOnes m 128 0 by omega) with heq | hlt
    · rw [heq]
      exact hzero (by omega)
    · exact hlow k hlt

/-- The scan of R101 counts the leading ones of the mask of `n`. -/
theorem countLeadingOnes_maskFromBits {n : Nat} (hn : n ≤ 128) : countLeadingOnes (maskFromBits n) 128 0 = n := by
  obtain ⟨-, hle, hones, hzero⟩ := countLeadingOnes_spec (maskFromBits n) 128 0 rfl
  rcases Nat.lt_trichotomy (countLeadingOnes (maskFromBits n) 128 0) n with hlt | heq | hgt
  · have := hzero (by omega)
    rw [maskFromBits_bit hn (by omega), decide_eq_false_iff_not] at this
    omega
  · exact heq
  · have := hones n (Nat.zero_le n) hgt
    rw [maskFromBits_bit hn (by omega), decide_eq_true_eq] at this
    omega

/-- The mask of `n` validates to `n` (R101, R105). -/
theorem bitsFromMask_maskFromBits {n : Nat} (hn : n ≤ 128) : bitsFromMask (maskFromBits n) = some n := by
  simp only [bitsFromMask, countLeadingOnes_maskFromBits hn]
  split
  · next h128 => rw [h128]
  · next h128 =>
    refine if_pos ?_
    by_cases h127 : n = 127
    · exact .inl h127
    · refine .inr ((slice_eq_zero_iff _ _).mpr fun k hk => ?_)
      rw [maskFromBits_bit hn (by omega), decide_eq_false (by omega)]

/-! ## Blocks: the length, the size and the invariant (43_cidr_block.md; 10_state.md R24) -/

/-- A block built from any value and a contiguous mask has both invariants of R24. -/
theorem makeBlock_inv {m : Word} (p : Word) (hm : ContiguousMask m) : (makeBlock p m).Inv :=
  ⟨by simp [makeBlock, BitVec.and_assoc], hm⟩

/-- `len` of a block whose mask is that of `n` (R144). -/
theorem blockLen_of_mask {x : Block} {n : Nat} (hn : n ≤ 128) (hm : x.mask = maskFromBits n) : blockLen x = n := by
  simp only [blockLen, hm, bitsFromMask_maskFromBits hn]

/-- The pair that ends an iteration counts the addresses of the block, for every length (45_iterator.md R182). -/
theorem endPair_val {x : Block} {n : Nat} (hn : n ≤ 128) (hm : x.mask = maskFromBits n) :
    (endPair x).val = 2 ^ (128 - n) := by
  simp only [endPair, blockSize, blockLen_of_mask hn hm]
  split
  · next h128 => simp [h128, Pair.val]
  · split
    · next h0 => simp [h0, Pair.val]
    · have hlt : 2 ^ (128 - n) < 2 ^ 128 := Nat.pow_lt_pow_right (by decide) (by omega)
      simpa [Pair.val] using hlt

/-- The first address of a block is a multiple of the number of its addresses (R24). -/
theorem Block.Inv.dvd_pfx {x : Block} {n : Nat} (hx : x.Inv) (hn : n ≤ 128) (hm : x.mask = maskFromBits n) :
    2 ^ (128 - n) ∣ x.pfx.toNat := by
  refine Nat.dvd_of_mod_eq_zero (Nat.eq_of_testBit_eq fun k => ?_)
  rw [Nat.testBit_mod_two_pow, Nat.zero_testBit, Bool.and_eq_false_iff]
  by_cases hk : k < 128 - n
  · have hbit : x.pfx.getLsbD k = (x.pfx &&& maskFromBits n).getLsbD k := by rw [← hm, hx.1]
    rw [BitVec.getLsbD_and, maskFromBits_bit hn (by omega), decide_eq_false (by omega), Bool.and_false] at hbit
    exact .inr hbit
  · exact .inl (decide_eq_false hk)

/-- The addresses of a block end at `2^128` or before it (45_iterator.md R187). -/
theorem Block.Inv.pfx_add_le {x : Block} {n : Nat} (hx : x.Inv) (hn : n ≤ 128) (hm : x.mask = maskFromBits n) :
    x.pfx.toNat + 2 ^ (128 - n) ≤ 2 ^ 128 := by
  have htop : 2 ^ (128 - n) ∣ 2 ^ 128 := Nat.pow_dvd_pow 2 (by omega)
  have hmod : x.pfx.toNat ≡ 2 ^ 128 [MOD 2 ^ (128 - n)] :=
    (hx.dvd_pfx hn hm).modEq_zero_nat.trans htop.modEq_zero_nat.symm
  exact hmod.add_le_of_lt x.pfx.isLt

/-! ## Overflow-flag pairs and iterators (45_iterator.md R180, R181; 10_state.md R28) -/

/-- `inc` counts one up below `2^128` (R180). -/
theorem Pair.inc_val {p : Pair} (h : p.val < 2 ^ 128) : p.inc.val = p.val + 1 := by
  obtain ⟨v, o⟩ := p
  have hv := v.isLt
  cases o with
  | true =>
    simp only [Pair.val, if_true] at h
    omega
  | false =>
    by_cases hmax : v = BitVec.allOnes 128
    · subst hmax
      decide
    · have hne : v.toNat ≠ 2 ^ 128 - 1 := fun h => hmax (BitVec.eq_of_toNat_eq (by simpa using h))
      have hadd : (v + 1).toNat = v.toNat + 1 := by bv_omega
      simp only [Pair.inc, if_neg hmax, Pair.val, hadd]
      omega

/-- Where `dec` is defined it counts one down (R181). -/
theorem Pair.dec_val {p c : Pair} (h : p.dec = some c) : c.val + 1 = p.val := by
  obtain ⟨v, o⟩ := p
  unfold Pair.dec at h
  split at h
  · next hv =>
    obtain rfl : v = 0 := hv
    cases o with
    | true =>
      cases h
      decide
    | false => cases h
  · next hv =>
    cases h
    have hpos : v.toNat ≠ 0 := fun h => hv (BitVec.eq_of_toNat_eq h)
    have hsub : (v - 1).toNat = v.toNat - 1 := by bv_omega
    simp only [Pair.val, hsub]
    omega

/-- `ITINIT` of a block with its invariant starts an iterator with its own (R182, R183, R187). -/
theorem Block.Inv.start_inv {x : Block} (hx : x.Inv) :
    Iter.Inv { origin := x.pfx, cur := { v := 0, o := false }, limit := endPair x } := by
  obtain ⟨n, hn, hm⟩ := hx.2
  have hval := endPair_val hn hm
  have hpos : 1 ≤ 2 ^ (128 - n) := Nat.one_le_two_pow
  have hend := hx.pfx_add_le hn hm
  simp only [Iter.Inv, hval]
  refine ⟨Nat.zero_le _, hpos, ?_, hend⟩
  omega

/-- Moving the cursor from before the end to its successor keeps the invariant (R184, R185, R186). -/
theorem Iter.Inv.advance {x : Iter} {c : Pair} (hx : x.Inv) (hlt : c.val < x.limit.val) :
    Iter.Inv { x with cur := c.inc } := by
  obtain ⟨-, hpos, hmax, hend⟩ := hx
  refine ⟨?_, hpos, hmax, hend⟩
  show c.inc.val ≤ x.limit.val
  rw [Pair.inc_val (by omega)]
  exact hlt

/-! ## What a completed command leaves (60_exceptions.md R208) -/

/-- The destination of a command that writes one value register and `STATUS.ERR`, and nothing else. -/
def plainDest : Instr → Option (Fin 8)
  | .mkmask rd _ | .mkmaskr rd _ | .oct2u rd _ | .u2oct rd _ | .grp2u rd _ | .u2grp rd _ => some rd
  | .bpfx rd _ | .bmask rd _ | .blen rd _ | .bfirst rd _ | .blast rd _ => some rd
  | _ => none

theorem destReg_of_plainDest {i : Instr} {rd : Fin 8} (h : plainDest i = some rd) : destReg i = some rd := by
  cases i <;> simp_all [plainDest, destReg]

/-- The states in which a command can complete from `s`, one constructor per shape of write: what every frame, every
invariant and every STATUS rule is derived from. -/
inductive Completes (s : State) : Instr → State → Prop
  /-- One value register and ERR (R102, R103, R124 to R127, R145 to R149). -/
  | plain {i : Instr} {rd : Fin 8} (v : Word) (hi : plainDest i = some rd) :
      Completes s i ((s.writeA rd v).setErr .none)
  /-- `MASKLEN` of a contiguous mask (R104). -/
  | maskLength (rd rs1 : Fin 8) (v : Word) :
      Completes s (.masklen rd rs1) (((s.writeA rd v).setV true).setErr .none)
  /-- `MASKLEN` of any other mask (R104), or `ITNEXT` of an exhausted iterator (R185). -/
  | nothing {i : Instr} (hi : (∃ rd rs1, i = .masklen rd rs1) ∨ ∃ rd j, i = .itnext rd j) :
      Completes s i ((s.setV false).setErr .none)
  /-- `BSIZE` (R151). -/
  | size (rd : Fin 8) (ba : Fin 4) (p : Pair) :
      Completes s (.bsize rd ba) (((s.writeA rd p.v).setOvf p.o).setErr .none)
  /-- A construction that reports an error (R141, R143, R202). -/
  | rejected {i : Instr} {ba : Fin 4} {e : ErrorKind} (hi : destBlock i = some ba) (he : e ≠ .incorrectCidrString) :
      Completes s i (s.setErr e)
  /-- A construction that succeeds (R141, R142, R143). -/
  | built {i : Instr} {ba : Fin 4} {x : Block} (hi : destBlock i = some ba) (hx : x.Inv) :
      Completes s i ((s.writeB ba x).setErr .none)
  /-- `BCMP` (R171). -/
  | compared (ba bb : Fin 4) (r : CmpCode) : Completes s (.bcmp ba bb) ((s.setCmp r).setErr .none)
  /-- `BCONT` (R173). -/
  | contained (ba : Fin 4) (rs1 : Fin 8) (c : Bool) : Completes s (.bcont ba rs1) ((s.setC c).setErr .none)
  /-- `ITINIT` (R183). -/
  | started (j : Fin 2) {ba : Fin 4} {x : Block} (hx : s.b[ba] = some x) :
      Completes s (.itinit j ba)
        ((s.writeI j { origin := x.pfx, cur := { v := 0, o := false }, limit := endPair x }).setErr .none)
  /-- `ITNEXT` with an element (R185), at the cursor, or `ITLAST` (R186), at the last cursor before the end. -/
  | delivered {i : Instr} (rd : Fin 8) {j : Fin 2} {x : Iter} {c : Pair} (hx : s.it[j] = some x)
      (hi : (i = .itnext rd j ∧ x.cur = c ∧ c ≠ x.limit) ∨ (i = .itlast rd j ∧ x.limit.dec = some c)) :
      Completes s i
        ((((s.writeA rd (x.origin + c.v)).writeI j { x with cur := c.inc }).setV true).setErr .none)

/-- The last write of an iterator register is the one that stands. -/
theorem writeI_writeA_writeI (s : State) (rd : Fin 8) (j : Fin 2) (v : Word) (x y : Iter) :
    ((s.writeI j x).writeA rd v).writeI j y = (s.writeA rd v).writeI j y := by
  simp [State.writeI, State.writeA]

/-- The cursor that `ITLAST` sets is not the end, so one `next()` call from it is an element (R186). -/
theorem Pair.dec_ne {p c : Pair} (h : p.dec = some c) : c ≠ p := by
  rintro rfl
  have := Pair.dec_val h
  omega

section
variable {s t : State}

theorem completes_makeMask {i : Instr} {rd : Fin 8} {b : Nat} (hi : plainDest i = some rd)
    (h : makeMask rd b s = .done t) : Completes s i t := by
  rcases makeMask_cases rd b s with ⟨-, he⟩ | ⟨-, he⟩ <;> cases he.symm.trans h
  exact .plain _ hi

theorem completes_unaryA {i : Instr} {rd rs1 : Fin 8} {f : Word → Word} (hi : plainDest i = some rd)
    (h : unaryA rd rs1 f s = .done t) : Completes s i t := by
  rcases unaryA_cases rd rs1 f s with ⟨-, he⟩ | ⟨_, -, he⟩ <;> cases he.symm.trans h
  exact .plain _ hi

theorem completes_accessorB {i : Instr} {rd : Fin 8} {ba : Fin 4} {f : Block → Word} (hi : plainDest i = some rd)
    (h : accessorB rd ba f s = .done t) : Completes s i t := by
  rcases accessorB_cases rd ba f s with ⟨-, he⟩ | ⟨_, -, he⟩ <;> cases he.symm.trans h
  exact .plain _ hi

theorem completes_buildFromBits {i : Instr} {ba : Fin 4} {p : Word} {b : Nat} (hi : destBlock i = some ba)
    (h : buildFromBits ba p b s = .done t) : Completes s i t := by
  rcases buildFromBits_cases ba p b s with ⟨-, he⟩ | ⟨hb, he⟩ <;> cases he.symm.trans h
  · exact .rejected hi (by decide)
  · exact .built hi (makeBlock_inv p ⟨b, hb, rfl⟩)

theorem withA_done {r : Fin 8} {k : Word → Effect} (h : withA s r k = .done t) :
    ∃ v, s.a[r] = some v ∧ k v = .done t := by
  rcases withA_cases h with ⟨-, he⟩ | ⟨v, hv, he⟩
  · cases he
  · exact ⟨v, hv, he.symm⟩

theorem withB_done {r : Fin 4} {k : Block → Effect} (h : withB s r k = .done t) :
    ∃ x, s.b[r] = some x ∧ k x = .done t := by
  rcases withB_cases h with ⟨-, he⟩ | ⟨x, hx, he⟩
  · cases he
  · exact ⟨x, hx, he.symm⟩

theorem withI_done {j : Fin 2} {k : Iter → Effect} (h : withI s j k = .done t) :
    ∃ x, s.it[j] = some x ∧ k x = .done t := by
  rcases withI_cases h with ⟨-, he⟩ | ⟨x, hx, he⟩
  · cases he
  · exact ⟨x, hx, he.symm⟩

/-- Every state in which a command completes has one of the shapes of `Completes`. -/
theorem completes_of_effectOf {i : Instr} (h : effectOf i s = .done t) : Completes s i t := by
  cases i with
  | mkmask rd imm8 => exact completes_makeMask rfl h
  | mkmaskr rd rs1 =>
    obtain ⟨v, -, h⟩ := withA_done h
    exact completes_makeMask rfl h
  | masklen rd rs1 =>
    obtain ⟨m, -, h⟩ := withA_done h
    cases hm : bitsFromMask m <;> simp only [hm] at h <;> cases h
    · exact .nothing (.inl ⟨rd, rs1, rfl⟩)
    · exact .maskLength rd rs1 _
  | oct2u rd rs1 => exact completes_unaryA rfl h
  | u2oct rd rs1 => exact completes_unaryA rfl h
  | grp2u rd rs1 => exact completes_unaryA rfl h
  | u2grp rd rs1 => exact completes_unaryA rfl h
  | cidrb ba rs1 imm8 =>
    obtain ⟨p, -, h⟩ := withA_done h
    exact completes_buildFromBits rfl h
  | cidrbr ba rs1 rs2 =>
    obtain ⟨p, -, h⟩ := withA_done h
    obtain ⟨b, -, h⟩ := withA_done h
    exact completes_buildFromBits rfl h
  | cidrm ba rs1 rs2 =>
    obtain ⟨p, -, h⟩ := withA_done h
    obtain ⟨m, -, h⟩ := withA_done h
    cases hm : bitsFromMask m <;> simp only [hm] at h <;> cases h
    · exact .rejected rfl (by decide)
    · exact .built rfl (makeBlock_inv p ⟨_, eq_maskFromBits_of_bitsFromMask hm⟩)
  | bpfx rd ba => exact completes_accessorB rfl h
  | bmask rd ba => exact completes_accessorB rfl h
  | blen rd ba => exact completes_accessorB rfl h
  | bfirst rd ba => exact completes_accessorB rfl h
  | blast rd ba => exact completes_accessorB rfl h
  | bsize rd ba =>
    obtain ⟨x, -, h⟩ := withB_done h
    cases h
    exact .size rd ba _
  | bcmp ba bb =>
    obtain ⟨x, -, h⟩ := withB_done h
    obtain ⟨y, -, h⟩ := withB_done h
    cases h
    exact .compared ba bb _
  | bcont ba rs1 =>
    obtain ⟨v, -, h⟩ := withA_done h
    obtain ⟨x, -, h⟩ := withB_done h
    cases h
    exact .contained ba rs1 _
  | itinit j ba =>
    obtain ⟨x, hx, h⟩ := withB_done h
    cases h
    exact .started j hx
  | itnext rd j =>
    obtain ⟨x, hx, h⟩ := withI_done h
    rcases deliverNext_cases rd j x s with ⟨-, he⟩ | ⟨hne, he⟩ <;> cases he.symm.trans h
    · exact .nothing (.inr ⟨rd, j, rfl⟩)
    · exact .delivered rd hx (.inl ⟨rfl, rfl, hne⟩)
  | itlast rd j =>
    obtain ⟨x, hx, h⟩ := withI_done h
    cases hc : x.limit.dec with
    | none => simp only [hc, reduceCtorEq] at h
    | some c =>
      simp only [hc] at h
      rcases deliverNext_cases rd j { x with cur := c } (s.writeI j { x with cur := c }) with ⟨heq, -⟩ | ⟨-, he⟩
      · exact absurd heq (Pair.dec_ne hc)
      · cases he.symm.trans h
        rw [writeI_writeA_writeI]
        exact .delivered (x := x) rd hx (.inr ⟨rfl, hc⟩)

/-- Everything a command that answers a next state can have done, its completions by shape. -/
theorem exec_next_completes {i : Instr} (h : exec i s = .next t) :
    (s.status.fault = true ∧ t = s) ∨ (s.status.fault = false ∧ Completes s i t) ∨
      (s.status.fault = false ∧ ∃ code,
        t = { s with status := { s.status with fault := true }, fcause := faultCode code, fcmd := encode i }) := by
  rcases exec_next h with hs | ⟨hf, he⟩ | ⟨hf, code, -, ht⟩
  · exact .inl hs
  · exact .inr (.inl ⟨hf, completes_of_effectOf he⟩)
  · exact .inr (.inr ⟨hf, code, ht⟩)

end

/-- ERR does not enter any check or result of a command, and every completion overwrites it (10_state.md R31). -/
theorem effectOf_setErr (i : Instr) (s : State) (e : ErrorKind) : effectOf i (s.setErr e) = effectOf i s := by
  cases i <;> rfl

/-! ## Which register a completed command changes (10_state.md R21, R25, R28) -/

/-- A register that reads differently after a write of its file is the one written. -/
theorem eq_of_file_get_set_ne {α : Type} {n : Nat} {f : Vector α n} {i k : Fin n} {x : α}
    (h : (f.set i x)[k] ≠ f[k]) : i = k := by
  by_contra hik
  exact h (file_get_set_other f i k x hik)

section
variable {s t : State} {i : Instr}

/-- A completed command changes its destination alone, and leaves it written; `MASKLEN` and `ITNEXT` then report `V = 1`
(R21, R104, R185). -/
theorem Completes.a_changed (h : Completes s i t) {r : Fin 8} (hne : t.a[r] ≠ s.a[r]) :
    destReg i = some r ∧ t.a[r] ≠ none ∧
      ((∃ rs1, i = .masklen r rs1) ∨ (∃ j, i = .itnext r j) → t.status.v = true) := by
  cases h with
  | plain v hi =>
    obtain rfl := eq_of_file_get_set_ne hne
    refine ⟨destReg_of_plainDest hi, by simp, ?_⟩
    rintro (⟨_, rfl⟩ | ⟨_, rfl⟩) <;> cases hi
  | maskLength rd rs1 v =>
    obtain rfl := eq_of_file_get_set_ne hne
    exact ⟨rfl, by simp, fun _ => rfl⟩
  | size rd ba p =>
    obtain rfl := eq_of_file_get_set_ne hne
    exact ⟨rfl, by simp, by simp⟩
  | delivered rd hx hi =>
    obtain rfl := eq_of_file_get_set_ne hne
    refine ⟨?_, by simp, fun _ => rfl⟩
    rcases hi with ⟨rfl, -⟩ | ⟨rfl, -⟩ <;> rfl
  | _ => exact absurd rfl hne

/-- A completed command changes a block register only as a construction that reports no error, to a block with both
invariants (R24, R25). -/
theorem Completes.b_changed (h : Completes s i t) {r : Fin 4} (hne : t.b[r] ≠ s.b[r]) :
    destBlock i = some r ∧ t.status.err = .none ∧ ∃ x, t.b[r] = some x ∧ x.Inv := by
  cases h with
  | built hi hx =>
    obtain rfl := eq_of_file_get_set_ne hne
    exact ⟨hi, rfl, _, file_get_set_same _ _ _, hx⟩
  | _ => exact absurd rfl hne

/-- A completed command changes an iterator register only as `ITINIT` of it, or as `ITNEXT` or `ITLAST` of it, which move
the cursor from before the end to its successor (R28, R183, R185, R186). -/
theorem Completes.it_changed (h : Completes s i t) {j : Fin 2} (hne : t.it[j] ≠ s.it[j]) :
    (∃ ba x, i = .itinit j ba ∧ s.b[ba] = some x ∧
      t.it[j] = some { origin := x.pfx, cur := { v := 0, o := false }, limit := endPair x }) ∨
    (∃ rd x c, (i = .itnext rd j ∨ i = .itlast rd j) ∧ s.it[j] = some x ∧ t.it[j] = some { x with cur := Pair.inc c } ∧
      (x.Inv → c.val < x.limit.val)) := by
  cases h with
  | started j' hx =>
    obtain rfl := eq_of_file_get_set_ne hne
    exact .inl ⟨_, _, rfl, hx, file_get_set_same _ _ _⟩
  | delivered rd hx hi =>
    obtain rfl := eq_of_file_get_set_ne hne
    refine .inr ⟨rd, _, _, hi.imp And.left And.left, hx, file_get_set_same _ _ _, fun hinv => ?_⟩
    rcases hi with ⟨-, rfl, hend⟩ | ⟨-, hdec⟩
    · exact lt_of_le_of_ne hinv.1 fun hval => hend (Pair.val_inj hval)
    · have := Pair.dec_val hdec
      omega
  | _ => exact absurd rfl hne

/-- The iterator register that changed is the destination (R28). -/
theorem Completes.it_changed_dest (h : Completes s i t) {j : Fin 2} (hne : t.it[j] ≠ s.it[j]) : destIter i = some j := by
  rcases h.it_changed hne with ⟨_, _, rfl, -⟩ | ⟨_, _, _, rfl | rfl, -⟩ <;> rfl

/-- What every completed command leaves alone: the fault record and the host's side of the port. -/
theorem Completes.keeps (h : Completes s i t) :
    t.status.fault = s.status.fault ∧ t.fcause = s.fcause ∧ t.fcmd = s.fcmd ∧ t.port = s.port ∧ t.replies = s.replies := by
  cases h <;> exact ⟨rfl, rfl, rfl, rfl, rfl⟩

/-- No command reports the reserved error code (60_exceptions.md R203). -/
theorem Completes.err_ne_reserved (h : Completes s i t) : t.status.err ≠ .incorrectCidrString := by
  cases h with
  | rejected _ he => exact he
  | _ => exact ErrorKind.noConfusion

/-- A completed command keeps every STATUS field that is not ERR and not its own result (10_state.md R30, R31). -/
theorem Completes.status_kept (h : Completes s i t) :
    ((∀ rd rs1, i ≠ .masklen rd rs1) → (∀ rd j, i ≠ .itnext rd j) → (∀ rd j, i ≠ .itlast rd j) →
      t.status.v = s.status.v) ∧
    ((∀ rd ba, i ≠ .bsize rd ba) → t.status.ovf = s.status.ovf) ∧
    ((∀ ba bb, i ≠ .bcmp ba bb) → t.status.cmp = s.status.cmp) ∧
    ((∀ ba rs1, i ≠ .bcont ba rs1) → t.status.c = s.status.c) := by
  cases h with
  | maskLength rd rs1 v => exact ⟨fun h _ _ => absurd rfl (h rd rs1), fun _ => rfl, fun _ => rfl, fun _ => rfl⟩
  | nothing hi =>
    refine ⟨fun hmasklen hitnext _ => ?_, fun _ => rfl, fun _ => rfl, fun _ => rfl⟩
    rcases hi with ⟨rd, rs1, hi⟩ | ⟨rd, j, hi⟩
    · exact absurd hi (hmasklen rd rs1)
    · exact absurd hi (hitnext rd j)
  | size rd ba p => exact ⟨fun _ _ _ => rfl, fun h => absurd rfl (h rd ba), fun _ => rfl, fun _ => rfl⟩
  | compared ba bb r => exact ⟨fun _ _ _ => rfl, fun _ => rfl, fun h => absurd rfl (h ba bb), fun _ => rfl⟩
  | contained ba rs1 c => exact ⟨fun _ _ _ => rfl, fun _ => rfl, fun _ => rfl, fun h => absurd rfl (h ba rs1)⟩
  | delivered rd hx hi =>
    refine ⟨fun _ hitnext hitlast => ?_, fun _ => rfl, fun _ => rfl, fun _ => rfl⟩
    rcases hi with ⟨hi, -⟩ | ⟨hi, -⟩
    · exact absurd hi (hitnext rd _)
    · exact absurd hi (hitlast rd _)
  | _ => exact ⟨fun _ _ _ => rfl, fun _ => rfl, fun _ => rfl, fun _ => rfl⟩

end

/-! ## The invariant of the machine (10_state.md R24, R28, R32, R33) -/

section
variable {s t : State}

/-- The invariant speaks of the block and iterator registers and of the fault record alone. -/
theorem State.Inv.of_eq (hs : s.Inv) (hb : t.b = s.b) (hit : t.it = s.it) (hst : t.status = s.status)
    (hcause : t.fcause = s.fcause) (hcmd : t.fcmd = s.fcmd) : t.Inv := by
  simpa only [State.Inv, FaultInv, hb, hit, hst, hcause, hcmd] using hs

/-- The state after reset has the invariant: every register is invalid (R37). -/
theorem reset_inv : State.reset.Inv := by
  refine ⟨fun r x hx => ?_, fun j x hx => ?_, by decide, by decide, by decide⟩
  · exact nomatch (reset_b r).symm.trans hx
  · exact nomatch (reset_it j).symm.trans hx

/-- Fault entry keeps the invariant: the code it records is one of R207. -/
theorem takeFault_inv (hs : s.Inv) (code : FaultCode) (w : Cmd) : (s.takeFault code w).Inv := by
  cases hf : s.status.fault with
  | true => rwa [takeFault_faulted hf]
  | false =>
    obtain ⟨hblocks, hiters, -, -, herr⟩ := hs
    rw [takeFault_first hf]
    exact ⟨hblocks, hiters, ⟨nofun, fun _ => faultCode_range code, herr⟩⟩

/-- A completed command keeps the invariant. -/
theorem Completes.inv {i : Instr} (h : Completes s i t) (hs : s.Inv) : t.Inv := by
  obtain ⟨hblocks, hiters, hclear, hset, -⟩ := hs
  obtain ⟨hfault, hcause, hcmd, -⟩ := h.keeps
  refine ⟨fun r x hx => ?_, fun j x hx => ?_, ?_, ?_, h.err_ne_reserved⟩
  · by_cases hr : t.b[r] = s.b[r]
    · exact hblocks r x (hr ▸ hx)
    · obtain ⟨-, -, y, hy, hinv⟩ := h.b_changed hr
      obtain rfl : y = x := Option.some.inj (hy.symm.trans hx)
      exact hinv
  · by_cases hj : t.it[j] = s.it[j]
    · exact hiters j x (hj ▸ hx)
    · rcases h.it_changed hj with ⟨ba, y, -, hy, ht⟩ | ⟨rd, y, c, -, hy, ht, hlt⟩
      · obtain rfl := Option.some.inj (ht.symm.trans hx)
        exact (hblocks ba y hy).start_inv
      · obtain rfl := Option.some.inj (ht.symm.trans hx)
        exact (hiters j y hy).advance (hlt (hiters j y hy))
  · rwa [hfault, hcause, hcmd]
  · rwa [hfault, hcause]

/-- Every command keeps the invariant. -/
theorem exec_inv {i : Instr} (hs : s.Inv) (h : exec i s = .next t) : t.Inv := by
  rcases exec_next_completes h with ⟨-, rfl⟩ | ⟨-, hc⟩ | ⟨hf, code, rfl⟩
  · exact hs
  · exact hc.inv hs
  · rw [← takeFault_first hf]
    exact takeFault_inv hs code _

/-- A port read keeps the invariant, its fault included (20_memory.md R52). -/
theorem portRead_inv (hs : s.Inv) (i : Fin 8) : (portRead i s).Inv := by
  unfold portRead
  split
  · exact hs.of_eq rfl rfl rfl rfl rfl
  · exact (takeFault_inv hs .portUnwrittenRead 0).of_eq rfl rfl rfl rfl rfl

/-- Every port operation keeps the invariant. -/
theorem portStep_inv {op : PortOp} (hs : s.Inv) (h : portStep op s = .next t) : t.Inv := by
  rcases portStep_next h with ⟨i, v, -, rfl⟩ | ⟨i, -, rfl⟩ | ⟨r, -, rfl⟩ | ⟨-, rfl⟩ | ⟨w, -, -, rfl⟩ |
    ⟨w, e, -, hf, -, rfl⟩ | ⟨w, i, -, -, -, hexec⟩
  · exact hs.of_eq rfl rfl rfl rfl rfl
  · exact portRead_inv hs i
  · exact hs.of_eq rfl rfl rfl rfl rfl
  · exact reset_inv.of_eq rfl rfl rfl rfl rfl
  · exact hs
  · rw [← takeFault_first hf]
    exact takeFault_inv hs _ w
  · exact exec_inv hs hexec

/-- Every step keeps the invariant. -/
theorem step_inv (hs : s.Inv) (h : step s = .next t) : t.Inv := by
  unfold step at h
  split at h
  · cases h
    exact hs
  · next rest _ =>
    have hrest : State.Inv { s with port := rest } := hs.of_eq rfl rfl rfl rfl rfl
    exact portStep_inv hrest h

end

/-! ## Which operation changes a register -/

section
variable {s t : State}

/-- An operation that changes a register file entry is a port write, a reset, or a command that completes: a read, an ignored
command and fault entry change none (20_memory.md R51, R52, R54; 60_exceptions.md R206). -/
theorem portStep_writer {op : PortOp} (h : portStep op s = .next t) :
    (t.a = s.a ∧ t.b = s.b ∧ t.it = s.it) ∨ op = .reset ∨ (∃ i v, op = .write i v ∧ t = s.writeA i v) ∨
      ∃ w i, op = .cmd w ∧ decode w = .ok i ∧ s.status.fault = false ∧ Completes s i t := by
  rcases portStep_next h with ⟨i, v, rfl, rfl⟩ | ⟨i, -, rfl⟩ | ⟨r, -, rfl⟩ | ⟨rfl, -⟩ | ⟨w, -, -, rfl⟩ |
    ⟨w, e, -, -, -, rfl⟩ | ⟨w, i, rfl, hf, hd, hexec⟩
  · exact .inr (.inr (.inl ⟨i, v, rfl, rfl⟩))
  · obtain ⟨ha, hb, hit, -⟩ := portRead_keeps i s
    exact .inl ⟨ha, hb, hit⟩
  · exact .inl ⟨rfl, rfl, rfl⟩
  · exact .inr (.inl rfl)
  · exact .inl ⟨rfl, rfl, rfl⟩
  · exact .inl ⟨rfl, rfl, rfl⟩
  · rcases exec_next_completes hexec with ⟨-, rfl⟩ | ⟨-, hc⟩ | ⟨-, code, rfl⟩
    · exact .inl ⟨rfl, rfl, rfl⟩
    · exact .inr (.inr (.inr ⟨w, i, rfl, hd, hf, hc⟩))
    · exact .inl ⟨rfl, rfl, rfl⟩

end

/-! ## STATUS as the host reads it (10_state.md R30) -/

/-- The STATUS word as a number: each field at its place (R30). -/
theorem statusWord_toNat (t : Status) : (statusWord t).toNat =
    t.fault.toNat * 2 ^ 7 + t.c.toNat * 2 ^ 6 + (cmpCode t.cmp).toNat * 2 ^ 4 + t.ovf.toNat * 2 ^ 3 + t.v.toNat * 2 ^ 2 +
      (errCode t.err).toNat := by
  obtain ⟨err, v, ovf, cmp, c, fault⟩ := t
  cases err <;> cases cmp <;> revert v ovf c fault <;> decide

/-- Every field of the STATUS word as a slice of it, the bits without storage included (R30). -/
theorem statusWord_slices (t : Status) :
    slice (statusWord t) 1 0 = (errCode t.err).toNat ∧ slice (statusWord t) 2 2 = t.v.toNat ∧
      slice (statusWord t) 3 3 = t.ovf.toNat ∧ slice (statusWord t) 5 4 = (cmpCode t.cmp).toNat ∧
      slice (statusWord t) 6 6 = t.c.toNat ∧ slice (statusWord t) 7 7 = t.fault.toNat ∧ slice (statusWord t) 31 8 = 0 := by
  have herr := (errCode t.err).isLt
  have hcmp := (cmpCode t.cmp).isLt
  have hv := t.v.toNat_le
  have hovf := t.ovf.toNat_le
  have hc := t.c.toNat_le
  have hfault := t.fault.toNat_le
  simp only [slice, statusWord_toNat]
  omega

/-- A one-bit slice is that bit (00_scope.md R9). -/
theorem getLsbD_of_slice {n k : Nat} {w : BitVec n} {b : Bool} (h : slice w k k = b.toNat) : w.getLsbD k = b := by
  have hbit := slice_testBit w k k 0
  rw [h] at hbit
  cases b <;> simpa using hbit.symm

end Sys2Proof.Machine

namespace Sys2Proof.Proofs

open Sys2Proof Sys2Proof.Machine

/-- Settles O24, by `step_inv`: each port operation keeps the invariant, and each command does by the shape of what it
writes. -/
theorem stepKeepsInvariant : Obligations.StepKeepsInvariant :=
  fun _ _ hs h => step_inv hs h

/-- Settles O25, by `reset_inv`. -/
theorem resetHasInvariant : Obligations.ResetHasInvariant :=
  reset_inv

/-- Settles O18: by `portStep_writer` the operation is a reset, a port write or a completed command, and
`Completes.a_changed` says which. -/
theorem valueRegisterWriters : Obligations.ValueRegisterWriters := by
  intro s t op r h hne
  rcases portStep_writer h with ⟨ha, -⟩ | hreset | ⟨i, v, rfl, rfl⟩ | ⟨w, i, rfl, hd, hf, hc⟩
  · exact absurd (by rw [ha]) hne
  · exact .inl hreset
  · obtain rfl := eq_of_file_get_set_ne hne
    exact .inr (.inl ⟨v, rfl, file_get_set_same _ _ _⟩)
  · obtain ⟨hdest, hwritten, hv⟩ := hc.a_changed hne
    obtain ⟨hfault, -⟩ := hc.keeps
    exact .inr (.inr ⟨w, i, rfl, hd, hdest, hwritten, hf, hfault.trans hf, hv⟩)

/-- Settles O19, by `portStep_writer` and `Completes.b_changed`. -/
theorem blockRegisterWriters : Obligations.BlockRegisterWriters := by
  intro s t op r h hne
  rcases portStep_writer h with ⟨-, hb, -⟩ | hreset | ⟨i, v, -, rfl⟩ | ⟨w, i, rfl, hd, hf, hc⟩
  · exact absurd (by rw [hb]) hne
  · exact .inl hreset
  · exact absurd rfl hne
  · obtain ⟨hdest, herr, hx⟩ := hc.b_changed hne
    obtain ⟨hfault, -⟩ := hc.keeps
    exact .inr ⟨w, i, rfl, hd, hdest, herr, hfault.trans hf, hx⟩

/-- Settles O20, by `portStep_writer` and `Completes.it_changed`; the bounds are part of the invariant that `portStep_inv`
keeps. -/
theorem iteratorRegisterWriters : Obligations.IteratorRegisterWriters := by
  intro s t op j h hne
  constructor
  · rcases portStep_writer h with ⟨-, -, hit⟩ | hreset | ⟨i, v, -, rfl⟩ | ⟨w, i, rfl, hd, -, hc⟩
    · exact absurd (by rw [hit]) hne
    · exact .inl hreset
    · exact absurd rfl hne
    · rcases hc.it_changed hne with ⟨ba, x, rfl, hx, ht⟩ | ⟨rd, x, c, hi, hx, ht, -⟩
      · exact .inr (.inl ⟨w, ba, x, _, rfl, hd, hx, ht⟩)
      · refine .inr (.inr ⟨w, rd, rfl, ?_, x, _, hx, ht⟩)
        rcases hi with rfl | rfl
        · exact .inl hd
        · exact .inr hd
  · intro hs x hx
    obtain ⟨-, hiters, -⟩ := portStep_inv hs h
    obtain ⟨hcur, hpos, hmax, -⟩ := hiters j x hx
    exact ⟨hcur, hpos, hmax⟩

/-- Settles O21: a fault is `exec_next_completes`'s last case; a completion overwrites ERR (`effectOf_setErr`) and keeps the
other fields as `Completes.status_kept` says. -/
theorem statusWritePolicy : Obligations.StatusWritePolicy := by
  intro s t i hf h
  rcases exec_next h with ⟨hfaulted, -⟩ | ⟨-, heff⟩ | ⟨-, code, -, rfl⟩
  · exact absurd (hf.symm.trans hfaulted) Bool.false_ne_true
  · have hc := completes_of_effectOf heff
    obtain ⟨hfault, -⟩ := hc.keeps
    refine ⟨fun ht => absurd (ht.symm.trans (hfault.trans hf)) Bool.noConfusion,
      fun _ => ⟨fun e => ⟨t, ?_, rfl⟩, hc.status_kept⟩⟩
    calc exec i (s.setErr e) = command i (s.setErr e) (effectOf i (s.setErr e)) := exec_eq_command i (s.setErr e)
      _ = command i (s.setErr e) (.done t) := by rw [effectOf_setErr, heff]
      _ = .next t := command_done (s := s.setErr e) hf i t
  · exact ⟨fun _ => rfl, fun ht => absurd ht Bool.noConfusion⟩

/-- Settles O23: a completed command changes its destinations alone, and a fault no register. -/
theorem commandFrame : Obligations.CommandFrame := by
  intro s t i h
  rcases exec_next_completes h with ⟨-, rfl⟩ | ⟨-, hc⟩ | ⟨hf, code, rfl⟩
  · exact ⟨fun _ _ => rfl, fun _ _ => rfl, fun _ _ => rfl, fun _ => ⟨rfl, rfl⟩, rfl, rfl⟩
  · obtain ⟨-, hcause, hcmd, hport, hreplies⟩ := hc.keeps
    refine ⟨fun r hr => ?_, fun r hr => ?_, fun j hj => ?_, fun _ => ⟨hcause, hcmd⟩, hport, hreplies⟩
    · by_contra hne
      obtain ⟨hdest, -⟩ := hc.a_changed hne
      exact hr hdest
    · by_contra hne
      obtain ⟨hdest, -⟩ := hc.b_changed hne
      exact hr hdest
    · by_contra hne
      exact hj (hc.it_changed_dest hne)
  · exact ⟨fun _ _ => rfl, fun _ _ => rfl, fun _ _ => rfl, fun ht => absurd (ht.trans hf) Bool.noConfusion, rfl, rfl⟩

/-- Settles O11, by the places of the fields in the STATUS word. -/
theorem statusReadsReturnRegisters : Obligations.StatusReadsReturnRegisters := by
  intro s
  obtain ⟨herr, hv, hovf, hcmp, hc, hfault, hrest⟩ := statusWord_slices s.status
  refine ⟨⟨statusWord s.status, rfl, fun h => ?_, fun h => ?_, fun h => ?_, getLsbD_of_slice hv, getLsbD_of_slice hovf,
    fun h => ?_, fun h => ?_, fun h => ?_, getLsbD_of_slice hc, getLsbD_of_slice hfault, hrest⟩, rfl, rfl⟩
  all_goals simp [herr, hcmp, h, errCode, cmpCode]

/-- Settles O12: the reset operation leaves the registers of the state after power-on, which are all clear. -/
theorem resetSetsEveryPiece : Obligations.ResetSetsEveryPiece :=
  have hstatus : statusWord State.reset.status = 0 := by decide
  ⟨fun s => ⟨portReset s, rfl, reset_a, reset_b, reset_it, hstatus, rfl, rfl⟩, reset_a, reset_b, reset_it, hstatus, rfl, rfl⟩

end Sys2Proof.Proofs

namespace Sys2Proof.Machine

/-! ## One step and its operation (20_memory.md R50, R52, R61) -/

section
variable {s t : State}

/-- With nothing issued a step changes nothing (R50; log entry 3). -/
theorem step_idle (h : s.port = []) : step s = .next s := by
  simp only [step, h]

/-- A step is the oldest issued operation, in the state without it (R61). -/
theorem step_oldest {op : PortOp} {rest : List PortOp} (h : s.port = op :: rest) :
    step s = portStep op { s with port := rest } := by
  simp only [step, h]

/-- A word in the faulted state is ignored (60_exceptions.md R209). -/
theorem portCmd_faulted (hf : s.status.fault = true) (w : Cmd) : portCmd w s = .next s :=
  if_pos hf

/-- A word that is no command faults (30_encoding.md R79). -/
theorem portCmd_error {w : Cmd} {e : DecodeError} (hf : s.status.fault = false) (hd : decode w = .error e) :
    portCmd w s = .next (s.takeFault (decodeFault e) w) := by
  simp [portCmd, hf, hd]

/-- A word that decodes runs its command (60_exceptions.md R208). -/
theorem portCmd_ok {w : Cmd} {i : Instr} (hf : s.status.fault = false) (hd : decode w = .ok i) :
    portCmd w s = exec i s := by
  simp [portCmd, hf, hd]

/-- The word handed over by `withFetchWord` is the operation of the next step, before what was issued already (R64). -/
theorem step_withFetchWord (s : State) (w : Cmd) : step (s.withFetchWord 32 w.toNat) = portCmd w s := by
  have hw : BitVec.ofNat 32 (w.toNat % 2 ^ 32) = w := by
    rw [Nat.mod_eq_of_lt w.isLt, BitVec.ofNat_toNat, BitVec.setWidth_eq]
  calc step (s.withFetchWord 32 w.toNat)
      = portStep (.cmd (BitVec.ofNat 32 (w.toNat % 2 ^ 32))) s := step_oldest (s := s.withFetchWord 32 w.toNat) rfl
    _ = portCmd w s := by rw [hw]; rfl

/-- `PortRead` of a written register (R52). -/
theorem portRead_written {i : Fin 8} {v : Word} (h : s.a[i] = some v) : portRead i s = s.reply (.value v) := by
  simp only [portRead, h]

/-- `PortRead` of an unwritten register with no fault recorded is the fault PORT_UNWRITTEN_READ (R52). -/
theorem portRead_unwritten {i : Fin 8} (h : s.a[i] = none) (hf : s.status.fault = false) :
    portRead i s = (recordFault s 7 0).reply .noValue := by
  simp only [portRead, h, takeFault_first hf]
  rfl

/-- `PortRead` of an unwritten register in the faulted state records nothing (R52). -/
theorem portRead_unwritten_faulted {i : Fin 8} (h : s.a[i] = none) (hf : s.status.fault = true) :
    portRead i s = s.reply .noValue := by
  simp only [portRead, h, takeFault_faulted hf]

/-- A command does not touch the operations that the host has issued. -/
theorem exec_port {i : Instr} (h : exec i s = .next t) : t.port = s.port := by
  rcases exec_next_completes h with ⟨-, rfl⟩ | ⟨-, hc⟩ | ⟨-, _, rfl⟩
  · rfl
  · obtain ⟨-, -, -, hport, -⟩ := hc.keeps
    exact hport
  · rfl

/-- No operation adds to, removes or reorders the operations that wait behind it (R61). -/
theorem portStep_port {op : PortOp} (h : portStep op s = .next t) : t.port = s.port := by
  rcases portStep_next h with ⟨i, v, -, rfl⟩ | ⟨i, -, rfl⟩ | ⟨r, -, rfl⟩ | ⟨-, rfl⟩ | ⟨w, -, -, rfl⟩ |
    ⟨w, e, -, -, -, rfl⟩ | ⟨w, i, -, -, -, hexec⟩
  · rfl
  · obtain ⟨-, -, -, hport⟩ := portRead_keeps i s
    exact hport
  · rfl
  · rfl
  · rfl
  · rfl
  · exact exec_port hexec

end

/-! ## Nothing stops the machine (45_iterator.md R181; 10_state.md R28) -/

/-- `dec` is undefined at the value 0 alone (R181). -/
theorem Pair.val_eq_zero_of_dec {p : Pair} (h : p.dec = none) : p.val = 0 := by
  obtain ⟨v, o⟩ := p
  unfold Pair.dec at h
  split at h
  · next hv =>
    obtain rfl : v = 0 := hv
    cases o with
    | true => cases h
    | false => rfl
  · cases h

/-- The end of an iterator with its invariant has a predecessor, since `val(end) >= 1` (R28). -/
theorem Iter.Inv.dec_ne_none {x : Iter} (hx : x.Inv) : x.limit.dec ≠ none := by
  intro h
  obtain ⟨-, hpos, -⟩ := hx
  rw [Pair.val_eq_zero_of_dec h] at hpos
  exact absurd hpos (by decide)

section
variable {s : State} {q : Refusal}

theorem withA_ne_refuse {r : Fin 8} {k : Word → Effect} (hk : ∀ v, k v ≠ .refuse q) : withA s r k ≠ .refuse q := by
  intro h
  rcases withA_cases h with ⟨-, he⟩ | ⟨v, -, he⟩
  · cases he
  · exact hk v he.symm

theorem withB_ne_refuse {r : Fin 4} {k : Block → Effect} (hk : ∀ x, k x ≠ .refuse q) : withB s r k ≠ .refuse q := by
  intro h
  rcases withB_cases h with ⟨-, he⟩ | ⟨x, -, he⟩
  · cases he
  · exact hk x he.symm

theorem withI_ne_refuse {j : Fin 2} {k : Iter → Effect} (hk : ∀ x, s.it[j] = some x → k x ≠ .refuse q) :
    withI s j k ≠ .refuse q := by
  intro h
  rcases withI_cases h with ⟨-, he⟩ | ⟨x, hx, he⟩
  · cases he
  · exact hk x hx he.symm

theorem makeMask_ne_refuse (rd : Fin 8) (b : Nat) : makeMask rd b s ≠ .refuse q := by
  rcases makeMask_cases rd b s with ⟨-, he⟩ | ⟨-, he⟩ <;> simp [he]

theorem buildFromBits_ne_refuse (ba : Fin 4) (p : Word) (b : Nat) : buildFromBits ba p b s ≠ .refuse q := by
  rcases buildFromBits_cases ba p b s with ⟨-, he⟩ | ⟨-, he⟩ <;> simp [he]

theorem deliverNext_ne_refuse (rd : Fin 8) (j : Fin 2) (x : Iter) : deliverNext rd j x s ≠ .refuse q := by
  rcases deliverNext_cases rd j x s with ⟨-, he⟩ | ⟨-, he⟩ <;> simp [he]

/-- The one refusal of the model is `ITLAST` of an end without a predecessor (log entry 6): where every valid iterator's end
has one, no command is refused. -/
theorem effectOf_ne_refuse (hend : ∀ (j : Fin 2) (x : Iter), s.it[j] = some x → x.limit.dec ≠ none) (i : Instr) :
    effectOf i s ≠ .refuse q := by
  cases i with
  | mkmask rd imm8 => exact makeMask_ne_refuse rd imm8
  | mkmaskr rd rs1 => exact withA_ne_refuse fun v => makeMask_ne_refuse rd v.toNat
  | masklen rd rs1 =>
    refine withA_ne_refuse fun m => ?_
    cases bitsFromMask m <;> exact Effect.noConfusion
  | oct2u | u2oct | grp2u | u2grp => exact withA_ne_refuse fun _ => Effect.noConfusion
  | cidrb ba rs1 imm8 => exact withA_ne_refuse fun p => buildFromBits_ne_refuse ba p imm8
  | cidrbr ba rs1 rs2 =>
    exact withA_ne_refuse fun p => withA_ne_refuse fun b => buildFromBits_ne_refuse ba p b.toNat
  | cidrm ba rs1 rs2 =>
    refine withA_ne_refuse fun p => withA_ne_refuse fun m => ?_
    cases bitsFromMask m <;> exact Effect.noConfusion
  | bpfx | bmask | blen | bfirst | blast | bsize | itinit => exact withB_ne_refuse fun _ => Effect.noConfusion
  | bcmp ba bb => exact withB_ne_refuse fun _ => withB_ne_refuse fun _ => Effect.noConfusion
  | bcont ba rs1 => exact withA_ne_refuse fun _ => withB_ne_refuse fun _ => Effect.noConfusion
  | itnext rd j => exact withI_ne_refuse fun x _ => deliverNext_ne_refuse rd j x
  | itlast rd j =>
    refine withI_ne_refuse fun x hx => ?_
    cases hc : x.limit.dec with
    | none => exact absurd hc (hend j x hx)
    | some c => exact deliverNext_ne_refuse rd j _

/-- In a state with the invariant every command has a next state. -/
theorem exec_answers (hs : s.Inv) (i : Instr) : ∃ t, exec i s = .next t := by
  obtain ⟨-, hiters, -⟩ := hs
  rw [exec_eq_command]
  cases hf : s.status.fault with
  | true => exact ⟨s, command_faulted hf i _⟩
  | false =>
    cases he : effectOf i s with
    | done t => exact ⟨t, command_done hf i t⟩
    | raise code => exact ⟨_, command_raise hf i code⟩
    | refuse r => exact absurd he (effectOf_ne_refuse (fun j x hx => (hiters j x hx).dec_ne_none) i)

/-- In a state with the invariant every port operation has a next state, whatever the command word. -/
theorem portStep_answers (hs : s.Inv) (op : PortOp) : ∃ t, portStep op s = .next t := by
  cases op with
  | cmd w =>
    cases hf : s.status.fault with
    | true => exact ⟨s, portCmd_faulted hf w⟩
    | false =>
      cases hd : decode w with
      | error e => exact ⟨_, portCmd_error hf hd⟩
      | ok i =>
        obtain ⟨t, ht⟩ := exec_answers hs i
        exact ⟨t, (portCmd_ok hf hd).trans ht⟩
  | write | read | readStatus | readFcause | readFcmd | reset => exact ⟨_, rfl⟩

/-- In a state with the invariant every step has a next state. -/
theorem step_answers (hs : s.Inv) : ∃ t, step s = .next t := by
  cases hp : s.port with
  | nil => exact ⟨s, step_idle hp⟩
  | cons op rest =>
    rw [step_oldest hp]
    exact portStep_answers (s := { s with port := rest }) (hs.of_eq rfl rfl rfl rfl rfl) op

end

end Sys2Proof.Machine

namespace Sys2Proof.Proofs

open Sys2Proof Sys2Proof.Machine

/-- Settles O26, by `step_answers`: the one refusal, `ITLAST` of an end of value 0, is shut out by the iterators' invariant
(R28). -/
theorem stepNeverStops : Obligations.StepNeverStops :=
  fun _ hs => step_answers hs

/-- Settles O5: the step is `PortCmd` of the word (`step_oldest`), and that runs the command (`portCmd_ok`). -/
theorem stepRunsDecodedCommand : Obligations.StepRunsDecodedCommand := by
  intro s rest w i hport hf hd
  exact (step_oldest hport).trans (portCmd_ok (s := { s with port := rest }) hf hd)

/-- Settles O6: the step is `PortCmd` of the handed word (`step_withFetchWord`), which runs the command. -/
theorem handedWordRunsNext : Obligations.HandedWordRunsNext := by
  intro s w i hf hd
  exact (step_withFetchWord s w).trans (portCmd_ok hf hd)

/-- Settles O7, by `step_idle`. -/
theorem idleStepChangesNothing : Obligations.IdleStepChangesNothing :=
  fun _ hport => step_idle hport

/-- Settles O8: the step is the oldest operation (`step_oldest`), which leaves the queue alone (`portStep_port`). -/
theorem stepsFollowOrderOfIssue : Obligations.StepsFollowOrderOfIssue := by
  intro s t op rest hport h
  rw [step_oldest hport] at h
  exact ⟨portStep_port h, h⟩

/-- Settles O9: `portWrite` is `State.writeA`, with no check of STATUS.FAULT. -/
theorem portWriteSetsRegister : Obligations.PortWriteSetsRegister :=
  fun _ _ _ => rfl

/-- Settles O10, one lemma about `portRead` for each case of R52. -/
theorem portReadReturnsOrFaults : Obligations.PortReadReturnsOrFaults := by
  intro s i
  refine ⟨fun v hv => ?_, fun hi hf => ?_, fun hi hf => ?_⟩
  · exact congrArg _ (portRead_written hv)
  · exact congrArg _ (portRead_unwritten hi hf)
  · exact congrArg _ (portRead_unwritten_faulted hi hf)

end Sys2Proof.Proofs

namespace Sys2Proof

open Sys2Proof.Machine

/-! ## The fields of a command word (30_encoding.md R71, R72) -/

section
variable (w : Cmd)

theorem rdField_val : (rdField w).val = slice w 25 23 := fieldIndex_val _ (slice_lt w 25 23)
theorem rs1Field_val : (rs1Field w).val = slice w 22 20 := fieldIndex_val _ (slice_lt w 22 20)
theorem rs2Field_val : (rs2Field w).val = slice w 19 17 := fieldIndex_val _ (slice_lt w 19 17)
theorem baField_val : (baField w).val = slice w 16 15 := fieldIndex_val _ (slice_lt w 16 15)
theorem bbField_val : (bbField w).val = slice w 14 13 := fieldIndex_val _ (slice_lt w 14 13)
theorem itField_val : (itField w).val = slice w 12 12 := fieldIndex_val _ (slice_lt w 12 12)

theorem opField_lt : opField w < 64 := slice_lt w 31 26

/-- Every immediate of a word is in the range of R77. -/
theorem imm8Field_le : imm8Field w ≤ 255 := Nat.le_of_lt_succ (slice_lt w 7 0)

/-- A word is its fields packed, where `z`, the field that no format uses, is zero (R71, R73). -/
theorem packFields_of_slices (hz : slice w 11 8 = 0) :
    packFields (opField w) (slice w 25 23) (slice w 22 20) (slice w 19 17) (slice w 16 15) (slice w 14 13)
      (slice w 12 12) (imm8Field w) = w := by
  obtain ⟨hop, hrd, hrs1, hrs2, hba, hbb, hit, hz', himm⟩ :=
    packFields_slices (opField_lt w) (slice_lt w 25 23) (slice_lt w 22 20) (slice_lt w 19 17) (slice_lt w 16 15)
      (slice_lt w 14 13) (slice_lt w 12 12) (slice_lt w 7 0)
  exact cmd_ext hop hrd hrs1 hrs2 hba hbb hit (hz'.trans hz.symm) himm

end

/-- The fields that the decoder reads from a packed word are the numbers packed (R71). -/
theorem fields_packFields {op rd rs1 rs2 ba bb it imm8 : Nat} (h1 : op < 64) (h2 : rd < 8) (h3 : rs1 < 8) (h4 : rs2 < 8)
    (h5 : ba < 4) (h6 : bb < 4) (h7 : it < 2) (h8 : imm8 < 256) :
    opField (packFields op rd rs1 rs2 ba bb it imm8) = op ∧ rdField (packFields op rd rs1 rs2 ba bb it imm8) = ⟨rd, h2⟩ ∧
    rs1Field (packFields op rd rs1 rs2 ba bb it imm8) = ⟨rs1, h3⟩ ∧
    rs2Field (packFields op rd rs1 rs2 ba bb it imm8) = ⟨rs2, h4⟩ ∧
    baField (packFields op rd rs1 rs2 ba bb it imm8) = ⟨ba, h5⟩ ∧
    bbField (packFields op rd rs1 rs2 ba bb it imm8) = ⟨bb, h6⟩ ∧
    itField (packFields op rd rs1 rs2 ba bb it imm8) = ⟨it, h7⟩ ∧ imm8Field (packFields op rd rs1 rs2 ba bb it imm8) = imm8 := by
  obtain ⟨hop, hrd, hrs1, hrs2, hba, hbb, hit, -, himm⟩ := packFields_slices h1 h2 h3 h4 h5 h6 h7 h8
  exact ⟨hop, Fin.ext ((rdField_val _).trans hrd), Fin.ext ((rs1Field_val _).trans hrs1),
    Fin.ext ((rs2Field_val _).trans hrs2), Fin.ext ((baField_val _).trans hba), Fin.ext ((bbField_val _).trans hbb),
    Fin.ext ((itField_val _).trans hit), himm⟩

/-! ## Must-be-zero masks and formats (30_encoding.md R73, R76) -/

/-- The word `match` of an opcode has that opcode. -/
theorem slice_matchWord_op {op : Nat} (hop : op < 64) : slice (BitVec.ofNat 32 op <<< 26) 31 26 = op := by
  simp only [slice, BitVec.toNat_shiftLeft, BitVec.toNat_ofNat, Nat.shiftLeft_eq]
  omega

/-- The word `match` of an opcode is zero below the opcode. -/
theorem slice_matchWord_low {op hi lo : Nat} (hlo : lo ≤ hi) (hhi : hi < 26) :
    slice (BitVec.ofNat 32 op <<< 26) hi lo = 0 := by
  refine Nat.eq_of_testBit_eq fun k => ?_
  rw [slice_testBit, BitVec.getLsbD_shiftLeft, Nat.zero_testBit]
  by_cases hk : k < hi - lo + 1
  · simp [show lo + k < 26 by omega]
  · simp [hk]

/-- A field in which the mask is all ones is zero in every word that the mask selects. -/
theorem slice_eq_zero_of_mask {w m : Cmd} {op hi lo : Nat} (hm : w &&& m = BitVec.ofNat 32 op <<< 26)
    (hlo : lo ≤ hi) (hhi : hi < 26) (hones : slice m hi lo = 2 ^ (hi - lo + 1) - 1) : slice w hi lo = 0 :=
  calc slice w hi lo = slice w hi lo % 2 ^ (hi - lo + 1) := (Nat.mod_eq_of_lt (slice_lt w hi lo)).symm
    _ = slice (w &&& m) hi lo := by rw [slice_and, hones, Nat.and_two_pow_sub_one_eq_mod]
    _ = 0 := by rw [hm, slice_matchWord_low hlo hhi]

/-- The opcode and the fields that a format uses, taken from a word, with every other field zero (R73, R76). -/
def Format.pack (f : Format) (w : Cmd) : Cmd :=
  match f with
  | .ri => packFields (opField w) (rdField w) 0 0 0 0 0 (imm8Field w)
  | .rr => packFields (opField w) (rdField w) (rs1Field w) 0 0 0 0 0
  | .bri => packFields (opField w) 0 (rs1Field w) 0 (baField w) 0 0 (imm8Field w)
  | .brr => packFields (opField w) 0 (rs1Field w) (rs2Field w) (baField w) 0 0 0
  | .rb => packFields (opField w) (rdField w) 0 0 (baField w) 0 0 0
  | .bb => packFields (opField w) 0 0 0 (baField w) (bbField w) 0 0
  | .br => packFields (opField w) 0 (rs1Field w) 0 (baField w) 0 0 0
  | .ib => packFields (opField w) 0 0 0 (baField w) 0 (itField w) 0
  | .rt => packFields (opField w) (rdField w) 0 0 0 0 (itField w) 0

/-- What a format packs passes its mask. -/
theorem Format.pack_and_mask (f : Format) (w : Cmd) : f.pack w &&& f.mask = BitVec.ofNat 32 (opField w) <<< 26 := by
  have hop := opField_lt w
  have himm := imm8Field_le w
  apply cmd_ext
  case hop =>
    have hpack : slice (f.pack w) 31 26 = opField w := by
      cases f <;> simp (disch := omega) [Format.pack, packFields_slices]
    have hmask : slice f.mask 31 26 = 2 ^ 6 - 1 := by cases f <;> decide
    rw [slice_and, hpack, hmask, Nat.and_two_pow_sub_one_eq_mod, Nat.mod_eq_of_lt hop, slice_matchWord_op hop]
  all_goals
    rw [slice_and, slice_matchWord_low (by decide) (by decide)]
    cases f <;> simp (disch := omega) [Format.pack, packFields_slices, Format.mask] <;> simp [slice]

/-- A word that passes the mask of a format holds nothing but what the format packs. -/
theorem Format.pack_eq_self {f : Format} {w : Cmd} (hm : w &&& f.mask = BitVec.ofNat 32 (opField w) <<< 26) :
    f.pack w = w := by
  have hz : slice w 11 8 = 0 := slice_eq_zero_of_mask hm (by decide) (by decide) (by cases f <;> decide)
  refine Eq.trans ?_ (packFields_of_slices w hz)
  cases f <;> simp (disch := decide) [Format.pack, rdField_val, rs1Field_val, rs2Field_val, baField_val,
    bbField_val, itField_val, imm8Field, slice_eq_zero_of_mask hm]

/-! ## The rows of the opcode map (30_encoding.md R74, R75) -/

section
variable {w : Cmd} {f : Format} {i : Instr}

/-- The command that a row spells is in range, since every immediate of a word is (R72, R77). -/
theorem wellFormed_of_opcodeRow (h : opcodeRow w = some (f, i)) : i.wellFormed = true := by
  unfold opcodeRow at h
  split at h <;> cases h <;> simp [Instr.wellFormed, imm8Field_le]

/-- The encoder packs the fields that the row of the format read. -/
theorem encode_of_opcodeRow (h : opcodeRow w = some (f, i)) : encode i = f.pack w := by
  unfold opcodeRow at h
  split at h <;> cases h <;> simp [*, encode, Format.pack]

/-- The word of a well-formed command has a row, which spells that command. -/
theorem opcodeRow_encode (h : i.wellFormed = true) : ∃ f, opcodeRow (encode i) = some (f, i) := by
  cases i with
  | mkmask | cidrb =>
    have himm := of_decide_eq_true h
    simp (disch := omega) [opcodeRow, encode, fields_packFields]
  | _ => simp (disch := omega) [opcodeRow, encode, fields_packFields]

/-- The opcodes without a row are the reserved ones of R75. -/
theorem opcodeRow_eq_none_iff : opcodeRow w = none ↔ ReservedOpcode (opField w) := by
  have hop := opField_lt w
  unfold opcodeRow
  split
  case h_22 =>
    simp only [ReservedOpcode, imp_false, true_iff] at *
    omega
  all_goals simp [ReservedOpcode, *]

/-- The row that the decoder takes is a row of the opcode map. -/
theorem mem_opcodeTable_of_opcodeRow (h : opcodeRow w = some (f, i)) :
    (BitVec.ofNat 32 (opField w) <<< 26, f.mask) ∈ opcodeTable := by
  unfold opcodeRow at h
  split at h <;> cases h <;> simp [*, opcodeTable, Format.mask]

end

/-- The opcodes of the opcode map, in the table's order. -/
theorem opcodeTable_opcodes : opcodeTable.map (fun row => slice row.1 31 26) =
    [0x01, 0x02, 0x03, 0x08, 0x09, 0x0a, 0x0b, 0x10, 0x11, 0x12, 0x14, 0x15, 0x16, 0x17, 0x18, 0x19, 0x20, 0x21, 0x28, 0x29,
      0x2a] := by
  decide

/-- No two rows of the opcode map have one opcode. -/
theorem opcodeTable_row_ext {row row' : Cmd × Cmd} (h : row ∈ opcodeTable) (h' : row' ∈ opcodeTable)
    (hop : slice row.1 31 26 = slice row'.1 31 26) : row = row' :=
  List.inj_on_of_nodup_map (by rw [opcodeTable_opcodes]; decide) h h' hop

/-- No row of the opcode map has a reserved opcode. -/
theorem not_reservedOpcode_of_mem {row : Cmd × Cmd} (h : row ∈ opcodeTable) : ¬ ReservedOpcode (slice row.1 31 26) := by
  have hmem : slice row.1 31 26 ∈ opcodeTable.map fun row => slice row.1 31 26 := List.mem_map_of_mem h
  rw [opcodeTable_opcodes] at hmem
  generalize slice row.1 31 26 = op at hmem ⊢
  simp only [List.mem_cons, List.not_mem_nil, or_false] at hmem
  unfold ReservedOpcode
  omega

/-- The decoder takes the row of the opcode map that has the word's opcode. -/
theorem opcodeRow_of_mem {w : Cmd} {row : Cmd × Cmd} (hmem : row ∈ opcodeTable) (hop : slice row.1 31 26 = opField w) :
    ∃ f i, opcodeRow w = some (f, i) ∧ row = (BitVec.ofNat 32 (opField w) <<< 26, f.mask) := by
  cases hrow : opcodeRow w with
  | none =>
    have hreserved := opcodeRow_eq_none_iff.mp hrow
    rw [← hop] at hreserved
    exact absurd hreserved (not_reservedOpcode_of_mem hmem)
  | some fi =>
    obtain ⟨f, i⟩ := fi
    have htable := mem_opcodeTable_of_opcodeRow hrow
    exact ⟨f, i, rfl, opcodeTable_row_ext hmem htable (hop.trans (slice_matchWord_op (opField_lt w)).symm)⟩

end Sys2Proof

namespace Sys2Proof.Machine

section
variable {s : State} {w : Cmd}

/-- A word with a reserved opcode is the fault ILLEGAL_OPCODE, code 1 of 60_exceptions.md R207. -/
theorem portCmd_illegalOpcode (hf : s.status.fault = false) (hd : decode w = .error .illegalOpcode) :
    portCmd w s = .next (recordFault s 1 w) := by
  rw [portCmd_error hf hd, takeFault_first hf]
  rfl

/-- A word with a nonzero unused field is the fault RESERVED_FIELD, code 2 of 60_exceptions.md R207. -/
theorem portCmd_reservedField (hf : s.status.fault = false) (hd : decode w = .error .reservedField) :
    portCmd w s = .next (recordFault s 2 w) := by
  rw [portCmd_error hf hd, takeFault_first hf]
  rfl

end

end Sys2Proof.Machine

namespace Sys2Proof.Proofs

open Sys2Proof Sys2Proof.Machine

/-- Settles O1: the word of a command has the command's row (`opcodeRow_encode`), and it is what the format of that row packs,
so it passes the mask (`Format.pack_and_mask`). -/
theorem decodeOfEncode : Obligations.DecodeOfEncode := by
  intro i hwf
  obtain ⟨f, hrow⟩ := opcodeRow_encode hwf
  have hmask := f.pack_and_mask (encode i)
  rw [← encode_of_opcodeRow hrow] at hmask
  exact decode_of_row hrow hmask

/-- Settles O2: the command's word is what its format packs from `w`, and that is `w` since `w` passes the mask
(`Format.pack_eq_self`). -/
theorem encodeOfDecode : Obligations.EncodeOfDecode := by
  intro w i hd
  obtain ⟨f, hrow, hmask⟩ := decode_ok hd
  exact ⟨wellFormed_of_opcodeRow hrow, (encode_of_opcodeRow hrow).trans (Format.pack_eq_self hmask)⟩

/-- Settles O3: an opcode without a row is reserved (`opcodeRow_eq_none_iff`), and a row that the decoder takes is in the
opcode map; its mask decides between the other two cases. -/
theorem everyWordIsOneOfThree : Obligations.EveryWordIsOneOfThree := by
  intro w
  cases hrow : opcodeRow w with
  | none => exact .inl ⟨opcodeRow_eq_none_iff.mp hrow, decode_illegalOpcode.mpr hrow⟩
  | some fi =>
    obtain ⟨f, i⟩ := fi
    have hassigned : ¬ ReservedOpcode (opField w) := by
      rw [← opcodeRow_eq_none_iff, hrow]
      exact Option.some_ne_none _
    refine .inr ⟨hassigned, _, mem_opcodeTable_of_opcodeRow hrow, slice_matchWord_op (opField_lt w), ?_⟩
    by_cases hmask : w &&& f.mask = BitVec.ofNat 32 (opField w) <<< 26
    · exact .inr ⟨hmask, i, decode_of_row hrow hmask⟩
    · exact .inl ⟨hmask, decode_reservedField.mpr ⟨f, i, hrow, hmask⟩⟩

/-- Settles O17: a reserved opcode has no row, and the row of an assigned opcode is the one that the decoder takes
(`opcodeRow_of_mem`), so a word that its mask refuses has a nonzero unused field. -/
theorem wordsThatAreNoCommandFault : Obligations.WordsThatAreNoCommandFault := by
  intro s w hf
  refine ⟨fun hreserved => ?_, fun row hmem hop hmask => ?_⟩
  · exact portCmd_illegalOpcode hf (decode_illegalOpcode.mpr (opcodeRow_eq_none_iff.mpr hreserved))
  · obtain ⟨f, i, hrow, rfl⟩ := opcodeRow_of_mem hmem hop
    exact portCmd_reservedField hf (decode_reservedField.mpr ⟨f, i, hrow, hmask⟩)

/-- Settles O4: each of the eight words is decoded by evaluation. -/
theorem specWordsDecode : Obligations.SpecWordsDecode := by
  unfold Obligations.SpecWordsDecode
  decide

end Sys2Proof.Proofs

namespace Sys2Proof.Machine

/-! ## The encoding that the rule of a command gives it (30_encoding.md R74) -/

/-- The opcode of a command, as its rule gives it (R74). -/
def opcodeOf : Instr → Nat
  | .mkmask .. => 0x01 | .mkmaskr .. => 0x02 | .masklen .. => 0x03
  | .oct2u .. => 0x08 | .u2oct .. => 0x09 | .grp2u .. => 0x0a | .u2grp .. => 0x0b
  | .cidrb .. => 0x10 | .cidrbr .. => 0x11 | .cidrm .. => 0x12
  | .bpfx .. => 0x14 | .bmask .. => 0x15 | .blen .. => 0x16 | .bfirst .. => 0x17 | .blast .. => 0x18 | .bsize .. => 0x19
  | .bcmp .. => 0x20 | .bcont .. => 0x21
  | .itinit .. => 0x28 | .itnext .. => 0x29 | .itlast .. => 0x2a

theorem opField_encode {i : Instr} (h : i.wellFormed = true) : opField (encode i) = opcodeOf i := by
  cases i with
  | mkmask | cidrb =>
    have himm := of_decide_eq_true h
    simp (disch := omega) only [encode, fields_packFields, opcodeOf]
  | _ => simp (disch := omega) only [encode, fields_packFields, opcodeOf]

/-- A row of the opcode map with the command's opcode is the command's encoding: the decoder takes that row
(`opcodeRow_of_mem`), and the command's word is what the row's format packs. -/
theorem hasEncoding_of_mem {i : Instr} {m k : Cmd} (hmem : (m, k) ∈ opcodeTable) (hop : slice m 31 26 = opcodeOf i) :
    HasEncoding i m k := by
  intro hwf
  obtain ⟨f, hrow⟩ := opcodeRow_encode hwf
  obtain ⟨f', i', hrow', hmk⟩ := opcodeRow_of_mem hmem (hop.trans (opField_encode hwf).symm)
  obtain ⟨rfl, rfl⟩ : f = f' ∧ i = i' := by simpa using hrow.symm.trans hrow'
  obtain ⟨rfl, rfl⟩ := Prod.ext_iff.mp hmk
  have hmask := f.pack_and_mask (encode i)
  rwa [← encode_of_opcodeRow hrow] at hmask

/-! ## A command by its effect, outside the faulted state (60_exceptions.md R206, R208) -/

section
variable {s t : State} {i : Instr}

/-- A command whose checks pass and whose pseudocode completes. -/
theorem exec_done (hf : s.status.fault = false) (he : effectOf i s = .done t) : exec i s = .next t := by
  rw [exec_eq_command, he, command_done hf]

/-- A command that raises a fault leaves the state of R206, with the code of R207 and its own word. -/
theorem exec_raise (code : FaultCode) (hf : s.status.fault = false) (he : effectOf i s = .raise code) :
    exec i s = .next (recordFault s (faultCode code).toNat (encode i)) := by
  rw [exec_eq_command, he, command_raise hf, recordFault, BitVec.ofNat_toNat, BitVec.setWidth_eq]

end

/-! ## The validator as an equivalence (41_mask.md R101, R106) -/

theorem bitsFromMask_eq_some_iff {m : Word} {n : Nat} : bitsFromMask m = some n ↔ n ≤ 128 ∧ m = maskFromBits n := by
  refine ⟨eq_maskFromBits_of_bitsFromMask, ?_⟩
  rintro ⟨hn, rfl⟩
  exact bitsFromMask_maskFromBits hn

theorem bitsFromMask_eq_none_iff {m : Word} : bitsFromMask m = none ↔ ¬ ContiguousMask m := by
  simp only [Option.eq_none_iff_forall_ne_some, ne_eq, bitsFromMask_eq_some_iff, ContiguousMask, not_exists]

/-- Lengths up to 128 have different masks, since the validator recovers the length (R106). -/
theorem maskFromBits_inj {a b : Nat} (ha : a ≤ 128) (hb : b ≤ 128) (h : maskFromBits a = maskFromBits b) : a = b := by
  have hbits := bitsFromMask_maskFromBits ha
  rw [h, bitsFromMask_maskFromBits hb] at hbits
  exact (Option.some.inj hbits).symm

/-! ## MKMASK, MKMASKR and MASKLEN by case (41_mask.md R102, R103, R104) -/

section
variable {s : State} {rd rs1 : Fin 8}

theorem makeMask_of_le {b : Nat} (hb : b ≤ 128) :
    makeMask rd b s = .done ((s.writeA rd (maskFromBits b)).setErr .none) :=
  if_neg (Nat.not_lt.mpr hb)

theorem makeMask_of_gt {b : Nat} (hb : 128 < b) : makeMask rd b s = .raise .contract :=
  if_pos hb

theorem exec_mkmask_of_le {imm8 : Nat} (hf : s.status.fault = false) (hb : imm8 ≤ 128) :
    exec (.mkmask rd imm8) s = .next ((s.writeA rd (maskFromBits imm8)).setErr .none) :=
  exec_done hf (makeMask_of_le hb)

theorem effectOf_mkmaskr_written {b : Word} (h : s.a[rs1] = some b) :
    effectOf (.mkmaskr rd rs1) s = makeMask rd b.toNat s :=
  withA_written h _

/-- `MASKLEN` of the mask of `n` writes `n` and sets V (R104). -/
theorem exec_masklen_of_mask {n : Nat} (hf : s.status.fault = false) (hn : n ≤ 128)
    (h : s.a[rs1] = some (maskFromBits n)) :
    exec (.masklen rd rs1) s = .next (((s.writeA rd (BitVec.ofNat 128 n)).setV true).setErr .none) :=
  exec_done hf (by simp only [effectOf, withA_written h, bitsFromMask_maskFromBits hn])

/-- `MASKLEN` of any other value clears V and writes no register (R104). -/
theorem exec_masklen_of_not_mask {m : Word} (hf : s.status.fault = false) (h : s.a[rs1] = some m)
    (hm : ¬ ContiguousMask m) : exec (.masklen rd rs1) s = .next ((s.setV false).setErr .none) :=
  exec_done hf (by simp only [effectOf, withA_written h, bitsFromMask_eq_none_iff.mpr hm])

end

end Sys2Proof.Machine

namespace Sys2Proof.Proofs

open Sys2Proof Sys2Proof.Machine

/-- Settles O28: MKMASK is `makeMask` of its immediate, by the two sides of 128; the bits and the number of the mask are
`maskFromBits_bit` and `maskFromBits_toNat`. -/
theorem mkmaskWritesMask : Obligations.MkmaskWritesMask := by
  intro s rd imm8 hf
  refine ⟨hasEncoding_of_mem (by decide) rfl, fun hb => ?_, fun hb _ => ?_⟩
  · exact ⟨maskFromBits imm8, fun k hk => maskFromBits_bit hb hk, maskFromBits_toNat hb, exec_mkmask_of_le hf hb⟩
  · exact exec_raise .contract hf (makeMask_of_gt hb)

/-- Settles O29: MKMASKR is `makeMask` of the whole value of its source, once that is written. -/
theorem mkmaskrWritesMask : Obligations.MkmaskrWritesMask := by
  intro s rd rs1 hf
  refine ⟨hasEncoding_of_mem (by decide) rfl, fun b h hb => ?_, fun b h hb => ?_, fun h => ?_⟩
  · exact ⟨maskFromBits b.toNat, fun k hk => maskFromBits_bit hb hk,
      exec_done hf ((effectOf_mkmaskr_written h).trans (makeMask_of_le hb))⟩
  · exact exec_raise .contract hf ((effectOf_mkmaskr_written h).trans (makeMask_of_gt hb))
  · exact exec_raise .unwrittenRead hf (withA_unwritten h _)

/-- Settles O30: MASKLEN by what the validator says of its source (`bitsFromMask_maskFromBits`,
`bitsFromMask_eq_none_iff`). -/
theorem masklenValidates : Obligations.MasklenValidates := by
  intro s rd rs1 hf
  refine ⟨hasEncoding_of_mem (by decide) rfl, fun n hn h => ?_, fun m h hm => ?_, fun h => ?_⟩
  · exact exec_masklen_of_mask hf hn h
  · exact exec_masklen_of_not_mask hf h hm
  · exact exec_raise .unwrittenRead hf (withA_unwritten h _)

/-- Settles O31: the scan of R101 finds the length of a mask and rejects all else, so masks of two lengths differ. -/
theorem validatorIsExact : Obligations.ValidatorIsExact :=
  ⟨fun _ _ => bitsFromMask_eq_some_iff, fun _ => bitsFromMask_eq_none_iff, fun _ _ => maskFromBits_inj⟩

/-- Settles O32: the register that MKMASK wrote holds the mask of `b`, which MASKLEN then validates to `b`. -/
theorem maskRoundTrip : Obligations.MaskRoundTrip := by
  intro b hb
  refine ⟨bitsFromMask_maskFromBits hb, fun s rd re hf => ?_⟩
  have hmask : ((s.writeA rd (maskFromBits b)).setErr .none).a[rd] = some (maskFromBits b) :=
    file_get_set_same _ _ _
  exact ⟨_, _, exec_mkmask_of_le hf hb, exec_masklen_of_mask hf hb hmask, file_get_set_same _ _ _, rfl⟩

end Sys2Proof.Proofs

namespace Sys2Proof.Machine

/-! ## A word by its lanes (42_byteorder.md R120 to R123; 20_memory.md R53) -/

/-- Lane k of width w: byte lanes at 8, halfword lanes at 16 (R53). -/
def lane (w : Nat) (r : Word) (k : Nat) : Nat := slice r (w * k + (w - 1)) (w * k)

/-- The word of n lanes of width w, lane 0 the least significant: the sum of a lane image (R122). -/
def ofLanes (w : Nat) {n : Nat} (f : Fin n → Nat) : Word := BitVec.ofNat 128 (∑ k, f k * 2 ^ (w * k.val))

theorem byteLane_eq_lane (r : Word) (k : Nat) : byteLane r k = lane 8 r k := rfl

theorem halfLane_eq_lane (r : Word) (k : Nat) : halfLane r k = lane 16 r k := rfl

theorem byteLane_lt (r : Word) (k : Nat) : byteLane r k < 2 ^ 8 := by
  simpa [byteLane] using slice_lt r (8 * k + 7) (8 * k)

theorem halfLane_lt (r : Word) (k : Nat) : halfLane r k < 2 ^ 16 := by
  simpa [halfLane] using slice_lt r (16 * k + 15) (16 * k)

section
variable {w n : Nat}

theorem lane_eq_digit (hw : 0 < w) (r : Word) (k : Nat) : lane w r k = r.toNat / 2 ^ (w * k) % 2 ^ w := by
  rw [lane, slice, show w * k + (w - 1) - w * k + 1 = w by omega]

/-- A sum of n digits in base `2 ^ w` has these digits and n places: Mathlib's `finFunctionFinEquiv`. -/
theorem sum_digits {f : Fin n → Nat} (hf : ∀ k, f k < 2 ^ w) :
    ∑ k, f k * 2 ^ (w * k.val) < 2 ^ (w * n) ∧
      ∀ i : Fin n, (∑ k, f k * 2 ^ (w * k.val)) / 2 ^ (w * i.val) % 2 ^ w = f i := by
  obtain ⟨d, rfl⟩ : ∃ d : Fin n → Fin (2 ^ w), f = fun k => (d k).val := ⟨fun k => ⟨f k, hf k⟩, rfl⟩
  simp only [Nat.pow_mul, ← finFunctionFinEquiv_apply]
  have hdigits := finFunctionFinEquiv.symm_apply_apply d
  exact ⟨(finFunctionFinEquiv d).isLt, fun i => congrArg Fin.val (congrFun hdigits i)⟩

/-- The lanes of a word are the numbers it was made of. -/
theorem lane_ofLanes (hw : 0 < w) (hwn : w * n = 128) {f : Fin n → Nat} (hf : ∀ k, f k < 2 ^ w) (i : Fin n) :
    lane w (ofLanes w f) i = f i := by
  obtain ⟨hlt, hdigit⟩ := sum_digits hf
  rw [hwn] at hlt
  rw [lane_eq_digit hw, ofLanes, BitVec.toNat_ofNat, Nat.mod_eq_of_lt hlt, hdigit]

/-- Bit `k` of a word is bit `k % w` of its lane `k / w`. -/
theorem getLsbD_eq_lane_testBit (hw : 0 < w) (r : Word) (k : Nat) :
    r.getLsbD k = (lane w r (k / w)).testBit (k % w) := by
  have hk := Nat.mod_lt k hw
  rw [lane, slice_testBit, Nat.div_add_mod, decide_eq_true (by omega), Bool.true_and]

/-- Two words with the same lanes are the same word. -/
theorem eq_of_lane_eq (hw : 0 < w) (hwn : w * n = 128) {r r' : Word} (h : ∀ i : Fin n, lane w r i = lane w r' i) :
    r = r' := by
  apply BitVec.eq_of_getLsbD_eq
  intro k hk
  have hlane : k / w < n := Nat.div_lt_of_lt_mul (by omega)
  rw [getLsbD_eq_lane_testBit hw r, getLsbD_eq_lane_testBit hw r', h ⟨_, hlane⟩]

/-- The sum whose first lane is the most significant (R120, R121, R123) is the word of the lanes in reverse order. -/
theorem ofNat_sum_descending (f : Fin n → Nat) :
    BitVec.ofNat 128 ((List.finRange n).map fun k => f k * 2 ^ (w * (n - 1 - k.val))).sum =
      ofLanes w fun k => f k.rev := by
  rw [← Fin.sum_univ_def, ofLanes, ← Equiv.sum_comp Fin.revPerm]
  congr 1
  refine Finset.sum_congr rfl fun k _ => ?_
  rw [Fin.revPerm_apply, Fin.val_rev, show n - 1 - (n - (k.val + 1)) = k.val by omega]

end

/-! ## The model's sums are words of lanes (R120 to R123) -/

/-- The ascending sum of a lane image is the word of the lanes in order (R122). -/
theorem octetLaneImage_eq (g : Vector (BitVec 8) 16) : octetLaneImage g = ofLanes 8 fun i : Fin 16 => (g[i]).toNat := by
  rw [octetLaneImage, ← Fin.sum_univ_def, ofLanes]

theorem groupLaneImage_eq (h : Vector (BitVec 16) 8) : groupLaneImage h = ofLanes 16 fun j : Fin 8 => (h[j]).toNat := by
  rw [groupLaneImage, ← Fin.sum_univ_def, ofLanes]

theorem fromOctets_eq (g : Vector (BitVec 8) 16) : fromOctets g = ofLanes 8 fun i : Fin 16 => (g[i.rev]).toNat :=
  ofNat_sum_descending fun i : Fin 16 => (g[i]).toNat

theorem fromGroups_eq (h : Vector (BitVec 16) 8) : fromGroups h = ofLanes 16 fun j : Fin 8 => (h[j.rev]).toNat :=
  ofNat_sum_descending fun j : Fin 8 => (h[j]).toNat

theorem bswap128_eq (r : Word) : bswap128 r = ofLanes 8 fun k : Fin 16 => byteLane r k.rev :=
  ofNat_sum_descending fun k : Fin 16 => byteLane r k

theorem hswap128_eq (r : Word) : hswap128 r = ofLanes 16 fun j : Fin 8 => halfLane r j.rev :=
  ofNat_sum_descending fun j : Fin 8 => halfLane r j

/-! ## Lane by lane: images, canonical values and reversals -/

theorem byteLane_ofLanes {f : Fin 16 → Nat} (hf : ∀ k, f k < 2 ^ 8) (i : Fin 16) : byteLane (ofLanes 8 f) i = f i :=
  lane_ofLanes (w := 8) (by decide) (by decide) hf i

theorem halfLane_ofLanes {f : Fin 8 → Nat} (hf : ∀ k, f k < 2 ^ 16) (j : Fin 8) : halfLane (ofLanes 16 f) j = f j :=
  lane_ofLanes (w := 16) (by decide) (by decide) hf j

theorem byteLane_octetLaneImage (g : Vector (BitVec 8) 16) (i : Fin 16) : byteLane (octetLaneImage g) i = (g[i]).toNat := by
  rw [octetLaneImage_eq, byteLane_ofLanes fun i => (g[i]).isLt]

theorem halfLane_groupLaneImage (h : Vector (BitVec 16) 8) (j : Fin 8) : halfLane (groupLaneImage h) j = (h[j]).toNat := by
  rw [groupLaneImage_eq, halfLane_ofLanes fun j => (h[j]).isLt]

theorem byteLane_fromOctets (g : Vector (BitVec 8) 16) (i : Fin 16) : byteLane (fromOctets g) i = (g[i.rev]).toNat := by
  rw [fromOctets_eq, byteLane_ofLanes fun i => (g[i.rev]).isLt]

theorem halfLane_fromGroups (h : Vector (BitVec 16) 8) (j : Fin 8) : halfLane (fromGroups h) j = (h[j.rev]).toNat := by
  rw [fromGroups_eq, halfLane_ofLanes fun j => (h[j.rev]).isLt]

theorem byteLane_bswap128 (r : Word) (i : Fin 16) : byteLane (bswap128 r) i = byteLane r i.rev := by
  rw [bswap128_eq, byteLane_ofLanes fun i => byteLane_lt r i.rev]

theorem halfLane_hswap128 (r : Word) (j : Fin 8) : halfLane (hswap128 r) j = halfLane r j.rev := by
  rw [hswap128_eq, halfLane_ofLanes fun j => halfLane_lt r j.rev]

/-- Two words with the same sixteen byte lanes are the same word. -/
theorem eq_of_byteLane_eq {r r' : Word} (h : ∀ i : Fin 16, byteLane r i = byteLane r' i) : r = r' :=
  eq_of_lane_eq (w := 8) (n := 16) (by decide) (by decide) h

/-- Two words with the same eight halfword lanes are the same word. -/
theorem eq_of_halfLane_eq {r r' : Word} (h : ∀ j : Fin 8, halfLane r j = halfLane r' j) : r = r' :=
  eq_of_lane_eq (w := 16) (n := 8) (by decide) (by decide) h

/-- Octet i is the byte lane at the same distance from the other end (R120, R53). -/
theorem oct_eq_byteLane (v : Word) (i : Fin 16) : oct v i = byteLane v i.rev := by
  rw [oct, byteLane, Fin.val_rev, show 127 - 8 * i.val = 8 * (16 - (i.val + 1)) + 7 by omega,
    show 120 - 8 * i.val = 8 * (16 - (i.val + 1)) by omega]

/-- Group j is the halfword lane at the same distance from the other end (R121, R53). -/
theorem grp_eq_halfLane (v : Word) (j : Fin 8) : grp v j = halfLane v j.rev := by
  rw [grp, halfLane, Fin.val_rev, show 127 - 16 * j.val = 16 * (8 - (j.val + 1)) + 15 by omega,
    show 112 - 16 * j.val = 16 * (8 - (j.val + 1)) by omega]

/-- A halfword lane is its two byte lanes, the low byte at the even place (R122). -/
theorem halfLane_eq_byteLanes (r : Word) (j : Nat) :
    halfLane r j = byteLane r (2 * j + 1) * 256 + byteLane r (2 * j) := by
  have hlo : 8 * (2 * j) = 16 * j := by omega
  have hhi : 8 * (2 * j + 1) = 16 * j + 8 := by omega
  simp only [halfLane_eq_lane, byteLane_eq_lane]
  rw [lane_eq_digit (by decide), lane_eq_digit (by decide), lane_eq_digit (by decide), hlo, hhi, Nat.pow_add,
    ← Nat.div_div_eq_div_mul]
  omega

/-- The two byte lanes of a halfword lane, as its two parts (R122). -/
theorem byteLanes_of_halfLane (r : Word) (j : Nat) :
    byteLane r (2 * j + 1) = halfLane r j / 256 ∧ byteLane r (2 * j) = halfLane r j % 256 := by
  have hhi := byteLane_lt r (2 * j + 1)
  have hlo := byteLane_lt r (2 * j)
  rw [halfLane_eq_byteLanes]
  omega

/-! ## The laws of the reversals (R123, R128) -/

/-- Octet i of a reversed word is its byte lane i (R124). -/
theorem oct_bswap128 (r : Word) (i : Fin 16) : oct (bswap128 r) i = byteLane r i := by
  rw [oct_eq_byteLane, byteLane_bswap128, Fin.rev_rev]

/-- Group j of a word reversed by halfwords is its halfword lane j (R126). -/
theorem grp_hswap128 (r : Word) (j : Fin 8) : grp (hswap128 r) j = halfLane r j := by
  rw [grp_eq_halfLane, halfLane_hswap128, Fin.rev_rev]

@[simp] theorem bswap128_bswap128 (v : Word) : bswap128 (bswap128 v) = v :=
  eq_of_byteLane_eq fun i => by rw [byteLane_bswap128, byteLane_bswap128, Fin.rev_rev]

@[simp] theorem hswap128_hswap128 (v : Word) : hswap128 (hswap128 v) = v :=
  eq_of_halfLane_eq fun j => by rw [halfLane_hswap128, halfLane_hswap128, Fin.rev_rev]

/-- Byte lane i of a reversed word is octet i of the word (R125). -/
theorem byteLane_bswap128_eq_oct (v : Word) (i : Fin 16) : byteLane (bswap128 v) i = oct v i := by
  rw [byteLane_bswap128, oct_eq_byteLane]

/-- Halfword lane j of a word reversed by halfwords is group j of the word (R127). -/
theorem halfLane_hswap128_eq_grp (v : Word) (j : Fin 8) : halfLane (hswap128 v) j = grp v j := by
  rw [halfLane_hswap128, grp_eq_halfLane]

/-- Reversal by halfwords keeps the byte order inside each halfword (R123). -/
theorem byteLane_hswap128 (r : Word) (j : Fin 8) :
    byteLane (hswap128 r) (2 * j.val) = byteLane r (2 * j.rev.val) ∧
      byteLane (hswap128 r) (2 * j.val + 1) = byteLane r (2 * j.rev.val + 1) := by
  obtain ⟨hhi, hlo⟩ := byteLanes_of_halfLane (hswap128 r) j
  obtain ⟨hhi', hlo'⟩ := byteLanes_of_halfLane r j.rev
  rw [halfLane_hswap128] at hhi hlo
  exact ⟨hlo.trans hlo'.symm, hhi.trans hhi'.symm⟩

/-- Both reversals, one after the other, swap the two bytes of each halfword (R128). -/
theorem byteLane_hswap128_bswap128 (v : Word) (j : Fin 8) :
    byteLane (hswap128 (bswap128 v)) (2 * j.val) = byteLane v (2 * j.val + 1) ∧
      byteLane (hswap128 (bswap128 v)) (2 * j.val + 1) = byteLane v (2 * j.val) := by
  obtain ⟨hlo, hhi⟩ := byteLane_hswap128 (bswap128 v) j
  have heven := byteLane_bswap128 v ⟨2 * j.rev.val, by omega⟩
  have hodd := byteLane_bswap128 v ⟨2 * j.rev.val + 1, by omega⟩
  simp only [Fin.val_rev] at hlo hhi heven hodd
  rw [show 16 - (2 * (8 - (j.val + 1)) + 1) = 2 * j.val + 1 by omega] at heven
  rw [show 16 - (2 * (8 - (j.val + 1)) + 1 + 1) = 2 * j.val by omega] at hodd
  exact ⟨hlo.trans heven, hhi.trans hodd⟩

/-- The octets of `from_octets(G)` are G (R120). -/
theorem oct_fromOctets (g : Vector (BitVec 8) 16) (i : Fin 16) : oct (fromOctets g) i = (g[i]).toNat := by
  simp only [oct_eq_byteLane, byteLane_fromOctets, Fin.rev_rev]

/-- The groups of `from_groups(H)` are H (R121). -/
theorem grp_fromGroups (h : Vector (BitVec 16) 8) (j : Fin 8) : grp (fromGroups h) j = (h[j]).toNat := by
  simp only [grp_eq_halfLane, halfLane_fromGroups, Fin.rev_rev]

theorem bswap128_octetLaneImage (g : Vector (BitVec 8) 16) : bswap128 (octetLaneImage g) = fromOctets g :=
  eq_of_byteLane_eq fun i => by rw [byteLane_bswap128, byteLane_octetLaneImage, byteLane_fromOctets]

theorem hswap128_groupLaneImage (h : Vector (BitVec 16) 8) : hswap128 (groupLaneImage h) = fromGroups h :=
  eq_of_halfLane_eq fun j => by rw [halfLane_hswap128, halfLane_groupLaneImage, halfLane_fromGroups]

/-- A group is its two octets, high byte first (R121). -/
theorem grp_eq_octs (v : Word) (j : Fin 8) : grp v j = oct v (2 * j.val) * 256 + oct v (2 * j.val + 1) := by
  have hhi := oct_eq_byteLane v ⟨2 * j.val, by omega⟩
  have hlo := oct_eq_byteLane v ⟨2 * j.val + 1, by omega⟩
  simp only [Fin.val_rev] at hhi hlo
  rw [grp_eq_halfLane, halfLane_eq_byteLanes, hhi, hlo, Fin.val_rev,
    show 16 - (2 * j.val + 1) = 2 * (8 - (j.val + 1)) + 1 by omega,
    show 16 - (2 * j.val + 1 + 1) = 2 * (8 - (j.val + 1)) by omega]

/-! ## The commands of one source with a total function (30_encoding.md R76, format RR) -/

section
variable {s : State} {i : Instr} {rd rs1 : Fin 8} {f : Word → Word}

theorem exec_unaryA_written {v : Word} (hi : effectOf i s = unaryA rd rs1 f s) (hf : s.status.fault = false)
    (h : s.a[rs1] = some v) : exec i s = .next ((s.writeA rd (f v)).setErr .none) :=
  exec_done hf (hi.trans (withA_written h _))

theorem exec_unaryA_unwritten (hi : effectOf i s = unaryA rd rs1 f s) (hf : s.status.fault = false)
    (h : s.a[rs1] = none) : exec i s = .next (recordFault s 3 (encode i)) :=
  exec_raise .unwrittenRead hf (hi.trans (withA_unwritten h _))

/-- Two such commands of one function, the second reading what the first wrote: where the function undoes itself they give
the value back. -/
theorem exec_unaryA_undone {i' : Instr} {re : Fin 8} {v : Word} (hi : ∀ s, effectOf i s = unaryA rd rs1 f s)
    (hi' : ∀ s, effectOf i' s = unaryA re rd f s) (hff : f (f v) = v) (hf : s.status.fault = false)
    (h : s.a[rs1] = some v) :
    ∃ t u, exec i s = .next t ∧ exec i' t = .next u ∧ u.a[re] = some v := by
  have hmid : ((s.writeA rd (f v)).setErr .none).a[rd] = some (f v) := file_get_set_same _ _ _
  refine ⟨_, _, exec_unaryA_written (hi _) hf h, exec_unaryA_written (hi' _) hf hmid, ?_⟩
  exact (file_get_set_same _ _ _).trans (congrArg some hff)

end

end Sys2Proof.Machine

namespace Sys2Proof.Proofs

open Sys2Proof Sys2Proof.Machine

/-- Settles O33: OCT2U writes `bswap128` of its source, whose octets are the source's byte lanes. -/
theorem oct2uReadsLanesAsOctets : Obligations.Oct2uReadsLanesAsOctets := by
  intro s rd rs1 hf
  refine ⟨hasEncoding_of_mem (by decide) rfl, fun r h => ?_, exec_unaryA_unwritten rfl hf⟩
  exact ⟨bswap128 r, fun i hi => oct_bswap128 r ⟨i, hi⟩, exec_unaryA_written rfl hf h⟩

/-- Settles O34: U2OCT writes `bswap128` of its source, whose byte lanes are the source's octets. -/
theorem u2octWritesOctetsAsLanes : Obligations.U2octWritesOctetsAsLanes := by
  intro s rd rs1 hf
  refine ⟨hasEncoding_of_mem (by decide) rfl, fun v h => ?_, exec_unaryA_unwritten rfl hf⟩
  exact ⟨bswap128 v, fun i hi => byteLane_bswap128_eq_oct v ⟨i, hi⟩, exec_unaryA_written rfl hf h⟩

/-- Settles O35: GRP2U writes `hswap128` of its source, whose groups are the source's halfword lanes. -/
theorem grp2uReadsLanesAsGroups : Obligations.Grp2uReadsLanesAsGroups := by
  intro s rd rs1 hf
  refine ⟨hasEncoding_of_mem (by decide) rfl, fun r h => ?_, exec_unaryA_unwritten rfl hf⟩
  exact ⟨hswap128 r, fun j hj => grp_hswap128 r ⟨j, hj⟩, exec_unaryA_written rfl hf h⟩

/-- Settles O36: U2GRP writes `hswap128` of its source, whose halfword lanes are the source's groups. -/
theorem u2grpWritesGroupsAsLanes : Obligations.U2grpWritesGroupsAsLanes := by
  intro s rd rs1 hf
  refine ⟨hasEncoding_of_mem (by decide) rfl, fun v h => ?_, exec_unaryA_unwritten rfl hf⟩
  exact ⟨hswap128 v, fun j hj => halfLane_hswap128_eq_grp v ⟨j, hj⟩, exec_unaryA_written rfl hf h⟩

/-- Settles O37: each reversal undoes itself, lane by lane, and each command pair applies one reversal twice
(`exec_unaryA_undone`). -/
theorem conversionsRoundTrip : Obligations.ConversionsRoundTrip := by
  constructor
  · exact fun v => ⟨bswap128_bswap128 v, hswap128_hswap128 v, fun j hj => byteLane_hswap128_bswap128 v ⟨j, hj⟩⟩
  · intro s rd re rs1 v hf h
    exact ⟨exec_unaryA_undone (fun _ => rfl) (fun _ => rfl) (bswap128_bswap128 v) hf h,
      exec_unaryA_undone (fun _ => rfl) (fun _ => rfl) (hswap128_hswap128 v) hf h⟩

/-- Settles O38: an image's lanes are its parts, a canonical value's lanes are its parts in reverse order, and words with the
same lanes are equal. -/
theorem laneImagesAreGroupedForms : Obligations.LaneImagesAreGroupedForms :=
  ⟨fun g => ⟨bswap128_octetLaneImage g, fun i => ⟨oct_fromOctets g i, byteLane_octetLaneImage g i⟩⟩,
    fun h => ⟨hswap128_groupLaneImage h, fun j => ⟨grp_fromGroups h j, halfLane_groupLaneImage h j⟩⟩,
    fun v j hj => grp_eq_octs v ⟨j, hj⟩⟩

end Sys2Proof.Proofs

namespace Sys2Proof.Machine

/-! ## Construction of a block by case (43_cidr_block.md R140 to R143) -/

section
variable {s : State} {i : Instr} {ba : Fin 4} {rs1 rs2 : Fin 8} {p : Word} {b : Nat}

theorem buildFromBits_of_le (hb : b ≤ 128) :
    buildFromBits ba p b s = .done ((s.writeB ba (makeBlock p (maskFromBits b))).setErr .none) :=
  if_neg (Nat.not_lt.mpr hb)

theorem buildFromBits_of_gt (hb : 128 < b) : buildFromBits ba p b s = .done (s.setErr .incorrectBitsRange) :=
  if_pos hb

/-- The prefix of a block of length `b` keeps the top `b` bits of the value it is made from and clears the rest (R140). -/
theorem makeBlock_pfx_bit {k : Nat} (hb : b ≤ 128) (hk : k < 128) :
    (makeBlock p (maskFromBits b)).pfx.getLsbD k = (p.getLsbD k && decide (128 - b ≤ k)) := by
  rw [makeBlock, BitVec.getLsbD_and, maskFromBits_bit hb hk]

/-- A command that builds from a length in range (R141, R142) leaves a block with its invariant, the mask of that length and
the masked prefix. -/
theorem exec_buildFromBits_of_le (hi : effectOf i s = buildFromBits ba p b s) (hf : s.status.fault = false) (hb : b ≤ 128) :
    ∃ x : Block, x.Inv ∧ x.mask = maskFromBits b ∧
      (∀ k < 128, x.pfx.getLsbD k = (p.getLsbD k && decide (128 - b ≤ k))) ∧
      exec i s = .next ((s.writeB ba x).setErr .none) :=
  ⟨makeBlock p (maskFromBits b), makeBlock_inv p ⟨b, hb, rfl⟩, rfl, fun _ hk => makeBlock_pfx_bit hb hk,
    exec_done hf (hi.trans (buildFromBits_of_le hb))⟩

theorem exec_buildFromBits_of_gt (hi : effectOf i s = buildFromBits ba p b s) (hf : s.status.fault = false) (hb : 128 < b) :
    exec i s = .next (s.setErr .incorrectBitsRange) :=
  exec_done hf (hi.trans (buildFromBits_of_gt hb))

theorem withA_withA_written {q : Word} (h1 : s.a[rs1] = some p) (h2 : s.a[rs2] = some q) (k : Word → Word → Effect) :
    (withA s rs1 fun v => withA s rs2 (k v)) = k p q :=
  (withA_written h1 _).trans (withA_written h2 _)

/-- Of two sources in a row either one unwritten raises UNWRITTEN_READ (10_state.md R22). -/
theorem withA_withA_unwritten (h : s.a[rs1] = none ∨ s.a[rs2] = none) (k : Word → Word → Effect) :
    (withA s rs1 fun v => withA s rs2 (k v)) = .raise .unwrittenRead := by
  cases h1 : s.a[rs1] with
  | none => exact withA_unwritten h1 _
  | some v =>
    have h2 : s.a[rs2] = none := h.resolve_left (by simp [h1])
    exact (withA_written h1 _).trans (withA_unwritten h2 _)

/-- `CIDRM` of a contiguous mask (R143). -/
theorem exec_cidrm_of_mask {m : Word} (hf : s.status.fault = false) (hp : s.a[rs1] = some p) (h : s.a[rs2] = some m)
    (hm : ContiguousMask m) : exec (.cidrm ba rs1 rs2) s = .next ((s.writeB ba (makeBlock p m)).setErr .none) := by
  obtain ⟨n, hn⟩ := hm
  have hbits : bitsFromMask m = some n := bitsFromMask_eq_some_iff.mpr hn
  exact exec_done hf ((withA_withA_written hp h _).trans (by rw [hbits]))

/-- `CIDRM` of any other mask (R143). -/
theorem exec_cidrm_of_not_mask {m : Word} (hf : s.status.fault = false) (hp : s.a[rs1] = some p) (h : s.a[rs2] = some m)
    (hm : ¬ ContiguousMask m) : exec (.cidrm ba rs1 rs2) s = .next (s.setErr .incorrectMask) := by
  have hbits : bitsFromMask m = none := bitsFromMask_eq_none_iff.mpr hm
  exact exec_done hf ((withA_withA_written hp h _).trans (by rw [hbits]))

end

/-! ## The last address and the size of a block of length n (43_cidr_block.md R149, R150) -/

/-- The complement of the mask of `n` holds the `128 - n` low bits (R149). -/
theorem not_maskFromBits_toNat {n : Nat} (hn : n ≤ 128) : (~~~maskFromBits n).toNat = 2 ^ (128 - n) - 1 := by
  have hpow : 2 ^ n * 2 ^ (128 - n) = 2 ^ 128 := by rw [← Nat.pow_add, Nat.add_sub_cancel' hn]
  have hle : 2 ^ (128 - n) ≤ 2 ^ 128 := Nat.pow_le_pow_right (by decide) (by omega)
  rw [BitVec.toNat_not, maskFromBits_toNat hn, Nat.sub_mul, hpow, Nat.one_mul]
  omega

/-- Host bits are zero in the prefix and fill the complement of the mask, so the OR of R149 is a sum. -/
theorem Block.Inv.blockLast_toNat {x : Block} {n : Nat} (hx : x.Inv) (hn : n ≤ 128) (hm : x.mask = maskFromBits n) :
    (blockLast x).toNat = x.pfx.toNat + (2 ^ (128 - n) - 1) := by
  obtain ⟨q, hq⟩ := hx.dvd_pfx hn hm
  have hhost : 2 ^ (128 - n) - 1 < 2 ^ (128 - n) := Nat.sub_lt (Nat.two_pow_pos _) Nat.one_pos
  rw [blockLast, BitVec.toNat_or, hm, not_maskFromBits_toNat hn, hq, Nat.two_pow_add_eq_or_of_lt hhost]

theorem blockLast_bit (x : Block) {k : Nat} (hk : k < 128) :
    (blockLast x).getLsbD k = (x.pfx.getLsbD k || !x.mask.getLsbD k) := by
  simp [blockLast, hk]

section
variable {x : Block} {n : Nat}

theorem blockSize_of_host (hm : x.mask = maskFromBits 128) : blockSize x = { v := 0, o := false } := by
  rw [blockSize, blockLen_of_mask (by decide) hm, if_pos rfl]

theorem blockSize_of_all (hm : x.mask = maskFromBits 0) : blockSize x = { v := 0, o := true } := by
  rw [blockSize, blockLen_of_mask (by decide) hm, if_neg (by decide), if_pos rfl]

/-- Between the two sentinels of R150 the count fits in 128 bits. -/
theorem blockSize_of_between (h1 : 1 ≤ n) (h127 : n ≤ 127) (hm : x.mask = maskFromBits n) :
    (blockSize x).v.toNat = 2 ^ (128 - n) ∧ (blockSize x).o = false := by
  have hlt : 2 ^ (128 - n) < 2 ^ 128 := Nat.pow_lt_pow_right (by decide) (by omega)
  rw [blockSize, blockLen_of_mask (by omega) hm, if_neg (by omega), if_neg (by omega)]
  exact ⟨by rw [BitVec.toNat_ofNat, Nat.mod_eq_of_lt hlt], rfl⟩

end

/-! ## The commands that read one block into a value register (30_encoding.md R76, format RB) -/

section
variable {s : State} {i : Instr} {rd : Fin 8} {ba : Fin 4} {f : Block → Word} {k : Block → Effect} {x : Block}

theorem exec_accessorB_valid (hi : effectOf i s = accessorB rd ba f s) (hf : s.status.fault = false)
    (h : s.b[ba] = some x) : exec i s = .next ((s.writeA rd (f x)).setErr .none) :=
  exec_done hf (hi.trans (withB_valid h _))

/-- A command whose first check is of a block register faults where that is invalid (10_state.md R26). -/
theorem exec_withB_invalid (hi : effectOf i s = withB s ba k) (hf : s.status.fault = false) (h : s.b[ba] = none) :
    exec i s = .next (recordFault s 4 (encode i)) :=
  exec_raise .invalidBlock hf (hi.trans (withB_invalid h _))

theorem exec_blen_valid (hf : s.status.fault = false) (h : s.b[ba] = some x) :
    exec (.blen rd ba) s = .next ((s.writeA rd (BitVec.ofNat 128 (blockLen x))).setErr .none) :=
  exec_accessorB_valid (f := fun x => BitVec.ofNat 128 (blockLen x)) rfl hf h

theorem exec_bsize_valid (hf : s.status.fault = false) (h : s.b[ba] = some x) :
    exec (.bsize rd ba) s = .next (((s.writeA rd (blockSize x).v).setOvf (blockSize x).o).setErr .none) :=
  exec_done hf (withB_valid h _)

end

end Sys2Proof.Machine

namespace Sys2Proof.Proofs

open Sys2Proof Sys2Proof.Machine

/-- Settles O39: past its operand check CIDRB is `buildFromBits` of its immediate, by the two sides of 128. -/
theorem cidrbBuildsBlock : Obligations.CidrbBuildsBlock := by
  intro s ba rs1 imm8 hf
  refine ⟨hasEncoding_of_mem (by decide) rfl, fun p hp => ?_, fun h _ => ?_⟩
  · have heff : effectOf (.cidrb ba rs1 imm8) s = buildFromBits ba p imm8 s := withA_written hp _
    exact ⟨exec_buildFromBits_of_le heff hf, fun hb _ => exec_buildFromBits_of_gt heff hf hb⟩
  · exact exec_raise .unwrittenRead hf (withA_unwritten h _)

/-- Settles O40: past its operand checks CIDRBR is `buildFromBits` of the whole value of its second source. -/
theorem cidrbrBuildsBlock : Obligations.CidrbrBuildsBlock := by
  intro s ba rs1 rs2 hf
  refine ⟨hasEncoding_of_mem (by decide) rfl, fun p b hp hb => ?_, fun h => ?_⟩
  · have heff : effectOf (.cidrbr ba rs1 rs2) s = buildFromBits ba p b.toNat s := withA_withA_written hp hb _
    exact ⟨exec_buildFromBits_of_le heff hf, exec_buildFromBits_of_gt heff hf⟩
  · exact exec_raise .unwrittenRead hf (withA_withA_unwritten h _)

/-- Settles O41: CIDRM by what the validator says of its second source; a block made with a contiguous mask has both
invariants (`makeBlock_inv`). -/
theorem cidrmBuildsBlock : Obligations.CidrmBuildsBlock := by
  intro s ba rs1 rs2 hf
  refine ⟨hasEncoding_of_mem (by decide) rfl, fun p m hp h => ⟨fun hm => ?_, fun hm => ?_⟩, fun h => ?_⟩
  · exact ⟨makeBlock p m, makeBlock_inv p hm, rfl, rfl, exec_cidrm_of_mask hf hp h hm⟩
  · exact exec_cidrm_of_not_mask hf hp h hm
  · exact exec_raise .unwrittenRead hf (withA_withA_unwritten h _)

/-- Settles O44: BLAST writes `blockLast`, whose number is `Block.Inv.blockLast_toNat`. -/
theorem blastWritesLast : Obligations.BlastWritesLast := by
  intro s rd ba hf
  refine ⟨hasEncoding_of_mem (by decide) rfl, fun x h => ?_, exec_withB_invalid rfl hf⟩
  exact ⟨blockLast x, fun _ hk => blockLast_bit x hk, fun hx _ hn hm => hx.blockLast_toNat hn hm,
    exec_accessorB_valid rfl hf h⟩

/-- Settles O42: the three commands are `accessorB` of the prefix, the prefix again and the mask. -/
theorem accessorsReadTheBlock : Obligations.AccessorsReadTheBlock := by
  intro s rd ba hf
  refine ⟨hasEncoding_of_mem (by decide) rfl, hasEncoding_of_mem (by decide) rfl, hasEncoding_of_mem (by decide) rfl,
    fun x h => ?_, fun h => ?_⟩
  · exact ⟨exec_accessorB_valid rfl hf h, exec_accessorB_valid rfl hf h, exec_accessorB_valid rfl hf h⟩
  · exact ⟨exec_withB_invalid rfl hf h, exec_withB_invalid rfl hf h, exec_withB_invalid rfl hf h⟩

/-- Settles O43: BLEN writes `blockLen`, which is `n` where the mask is that of `n` (`blockLen_of_mask`). -/
theorem blenWritesLength : Obligations.BlenWritesLength := by
  intro s rd ba hf
  refine ⟨hasEncoding_of_mem (by decide) rfl, fun x n h hn hm => ?_, exec_withB_invalid rfl hf⟩
  rw [← blockLen_of_mask hn hm]
  exact exec_blen_valid hf h

/-- Settles O45: BSIZE writes `blockSize`, by the three kinds of length of R150. -/
theorem bsizeWritesSize : Obligations.BsizeWritesSize := by
  intro s rd ba hf
  refine ⟨hasEncoding_of_mem (by decide) rfl, fun x n h hn hm => ?_, exec_withB_invalid rfl hf⟩
  refine ⟨(blockSize x).v, (blockSize x).o, ?_, ?_, fun h1 h127 => blockSize_of_between h1 h127 hm, exec_bsize_valid hf h⟩
  · rintro rfl
    simp [blockSize_of_host hm]
  · rintro rfl
    simp [blockSize_of_all hm]

/-- Settles O46: past the check of the register none of the four asks whether the mask is contiguous. -/
theorem lengthReadersComplete : Obligations.LengthReadersComplete := by
  intro s ba x hf h
  refine ⟨fun rd => ?_, fun rd => ?_, fun bb y hy => ?_, fun j => ?_⟩
  · exact ⟨BitVec.ofNat 128 (blockLen x), exec_blen_valid hf h⟩
  · exact ⟨(blockSize x).v, (blockSize x).o, exec_bsize_valid hf h⟩
  · exact ⟨cmpOfOrdering (blockOrder x y), exec_done hf ((withB_valid h _).trans (withB_valid hy _))⟩
  · exact ⟨endPair x, exec_done hf (withB_valid h _)⟩

end Sys2Proof.Proofs

namespace Sys2Proof.Machine

/-! ## The order of blocks is the order of their keys (44_compare_contain.md R170) -/

/-- The number that the first `j` groups of a word spell, the most significant first (R121). -/
def groupsAbove (v : Word) (j : Nat) : Nat := v.toNat / 2 ^ (128 - 16 * j)

theorem groupsAbove_zero (v : Word) : groupsAbove v 0 = 0 :=
  Nat.div_eq_of_lt v.isLt

theorem groupsAbove_eight (v : Word) : groupsAbove v 8 = v.toNat :=
  Nat.div_one _

/-- One more group is one more digit in base `2 ^ 16`. -/
theorem groupsAbove_succ (v : Word) {j : Nat} (hj : j < 8) :
    groupsAbove v (j + 1) = groupsAbove v j * 2 ^ 16 + grp v j := by
  have hgrp : grp v j = v.toNat / 2 ^ (112 - 16 * j) % 2 ^ 16 := by
    rw [grp, slice, show 127 - 16 * j - (112 - 16 * j) + 1 = 16 by omega]
  have habove : groupsAbove v j = v.toNat / 2 ^ (112 - 16 * j) / 2 ^ 16 := by
    rw [groupsAbove, Nat.div_div_eq_div_mul, ← Nat.pow_add, show 112 - 16 * j + 16 = 128 - 16 * j by omega]
  rw [hgrp, habove, groupsAbove, show 128 - 16 * (j + 1) = 112 - 16 * j by omega]
  exact (Nat.div_add_mod' _ _).symm

/-- A word with the smaller leading groups is the smaller number. -/
theorem toNat_lt_of_groupsAbove_lt {p q : Word} {j : Nat} (h : groupsAbove p j < groupsAbove q j) :
    p.toNat < q.toNat :=
  Nat.lt_of_div_lt_div h

/-- The loop of R170, where the groups before `j` are equal, compares the two words as numbers. -/
theorem groupOrder_range' {p q : Word} (n j : Nat) (hn : j + n = 8) (heq : groupsAbove p j = groupsAbove q j) :
    groupOrder p q (List.range' j n) = compare p.toNat q.toNat := by
  induction n generalizing j with
  | zero =>
    obtain rfl : j = 8 := hn
    rw [groupsAbove_eight, groupsAbove_eight] at heq
    exact (compare_eq_iff_eq.mpr heq).symm
  | succ n ih =>
    have hp := groupsAbove_succ p (show j < 8 by omega)
    have hq := groupsAbove_succ q (show j < 8 by omega)
    rw [List.range'_succ, groupOrder]
    rcases Nat.lt_trichotomy (grp p j) (grp q j) with hlt | hgrp | hgt
    · rw [if_pos hlt]
      exact (compare_lt_iff_lt.mpr (toNat_lt_of_groupsAbove_lt (j := j + 1) (by omega))).symm
    · rw [if_neg (by omega), if_neg (by omega)]
      exact ih (j + 1) (by omega) (by omega)
    · rw [if_neg (by omega), if_pos hgt]
      exact (compare_gt_iff_gt.mpr (toNat_lt_of_groupsAbove_lt (j := j + 1) (by omega))).symm

theorem groupOrder_eq_compare (p q : Word) : groupOrder p q (List.range 8) = compare p.toNat q.toNat := by
  rw [List.range_eq_range']
  exact groupOrder_range' 8 0 rfl ((groupsAbove_zero p).trans (groupsAbove_zero q).symm)

/-- What R170 orders a block by: the prefix as a number, then the length. -/
def Block.key (x : Block) : ℕ ×ₗ ℕ := toLex (x.pfx.toNat, blockLen x)

theorem Block.key_lt_key_iff {x y : Block} :
    x.key < y.key ↔ x.pfx.toNat < y.pfx.toNat ∨ (x.pfx.toNat = y.pfx.toNat ∧ blockLen x < blockLen y) :=
  Prod.Lex.toLex_lt_toLex

theorem Block.key_eq_key_iff {x y : Block} :
    x.key = y.key ↔ x.pfx.toNat = y.pfx.toNat ∧ blockLen x = blockLen y :=
  toLex_inj.trans Prod.mk_inj

/-- `order` compares the keys in the lexicographic order, which is linear (R170). -/
theorem blockOrder_eq_compare (x y : Block) : blockOrder x y = compare x.key y.key := by
  have hlex : compare x.key y.key = (compare x.pfx.toNat y.pfx.toNat).then (compare (blockLen x) (blockLen y)) :=
    rfl
  rw [hlex, blockOrder, groupOrder_eq_compare, Nat.compare_eq_ite_lt (blockLen x)]
  cases compare x.pfx.toNat y.pfx.toNat <;> rfl

theorem blockOrder_eq_lt_iff {x y : Block} : blockOrder x y = .lt ↔ x.key < y.key := by
  rw [blockOrder_eq_compare, compare_lt_iff_lt]

theorem blockOrder_eq_gt_iff {x y : Block} : blockOrder x y = .gt ↔ y.key < x.key := by
  rw [blockOrder_eq_compare, compare_gt_iff_gt]

theorem blockOrder_eq_eq_iff {x y : Block} : blockOrder x y = .eq ↔ x.key = y.key := by
  rw [blockOrder_eq_compare, compare_eq_iff_eq]

/-- A valid block is determined by its key: the mask is that of the length (R24, R152). -/
theorem Block.Inv.key_inj {x y : Block} (hx : x.Inv) (hy : y.Inv) : x.key = y.key ↔ x = y := by
  refine ⟨fun h => ?_, congrArg Block.key⟩
  obtain ⟨hpfx, hlen⟩ := Block.key_eq_key_iff.mp h
  obtain ⟨-, n, hn, hmx⟩ := hx
  obtain ⟨-, l, hl, hmy⟩ := hy
  rw [blockLen_of_mask hn hmx, blockLen_of_mask hl hmy] at hlen
  obtain ⟨px, mx⟩ := x
  obtain ⟨py, my⟩ := y
  rw [Block.mk.injEq]
  exact ⟨BitVec.eq_of_toNat_eq hpfx, hmx.trans (hlen ▸ hmy.symm)⟩

end Sys2Proof.Machine

namespace Sys2Proof.Proofs

open Sys2Proof Sys2Proof.Machine

/-- Settles O48: `order` is the comparison of keys (`blockOrder_eq_compare`), whose order is linear, and a valid block is
determined by its key (`Block.Inv.key_inj`). -/
theorem orderIsStrictTotal : Obligations.OrderIsStrictTotal := by
  refine ⟨fun x y hx hy => ⟨?_, ?_⟩, fun x y z _ _ _ hxy hyz => ?_⟩
  · exact blockOrder_eq_eq_iff.trans (hx.key_inj hy)
  · exact blockOrder_eq_lt_iff.trans blockOrder_eq_gt_iff.symm
  · rw [blockOrder_eq_lt_iff] at hxy hyz ⊢
    exact hxy.trans hyz

end Sys2Proof.Proofs

namespace Sys2Proof.Machine

/-! ## BCMP by case (44_compare_contain.md R171) -/

/-- `STATUS.CMP` tells the three orders apart (R171). -/
theorem cmpOfOrdering_eq_iff (o : Ordering) :
    (cmpOfOrdering o = .less ↔ o = .lt) ∧ (cmpOfOrdering o = .greater ↔ o = .gt) ∧ (cmpOfOrdering o = .equal ↔ o = .eq) := by
  cases o <;> decide

section
variable {s : State} {ba bb : Fin 4}

theorem exec_bcmp_valid {x y : Block} (hf : s.status.fault = false) (hx : s.b[ba] = some x) (hy : s.b[bb] = some y) :
    exec (.bcmp ba bb) s = .next ((s.setCmp (cmpOfOrdering (blockOrder x y))).setErr .none) :=
  exec_done hf ((withB_valid hx _).trans (withB_valid hy _))

/-- Of two source blocks in a row either one invalid raises INVALID_BLOCK (10_state.md R26). -/
theorem withB_withB_invalid (h : s.b[ba] = none ∨ s.b[bb] = none) (k : Block → Block → Effect) :
    (withB s ba fun x => withB s bb (k x)) = .raise .invalidBlock := by
  cases ha : s.b[ba] with
  | none => exact withB_invalid ha _
  | some x =>
    have hb : s.b[bb] = none := h.resolve_left (by simp [ha])
    exact (withB_valid ha _).trans (withB_invalid hb _)

end

end Sys2Proof.Machine

namespace Sys2Proof.Proofs

open Sys2Proof Sys2Proof.Machine

/-- Settles O47: BCMP writes the comparison of the two keys, and the length in a key is that of the mask
(`blockLen_of_mask`). -/
theorem bcmpOrdersBlocks : Obligations.BcmpOrdersBlocks := by
  intro s ba bb hf
  refine ⟨hasEncoding_of_mem (by decide) rfl, fun x y n l hx hy hn hl hmx hmy => ?_, fun h => ?_⟩
  · have hlen := blockLen_of_mask hn hmx
    have hlen' := blockLen_of_mask hl hmy
    obtain ⟨hless, hgreater, hequal⟩ := cmpOfOrdering_eq_iff (blockOrder x y)
    refine ⟨cmpOfOrdering (blockOrder x y), ?_, ?_, ?_, exec_bcmp_valid hf hx hy⟩
    · rw [hless, blockOrder_eq_lt_iff, Block.key_lt_key_iff, hlen, hlen']
    · rw [hgreater, blockOrder_eq_gt_iff, Block.key_lt_key_iff, hlen, hlen', eq_comm (a := y.pfx.toNat)]
    · rw [hequal, blockOrder_eq_eq_iff, Block.key_eq_key_iff, hlen, hlen']
  · exact exec_raise .invalidBlock hf (withB_withB_invalid h _)

end Sys2Proof.Proofs

namespace Sys2Proof.Machine

/-! ## Containment as a range (44_compare_contain.md R172, R175) -/

/-- ANDing with the mask of `n` clears the low `128 - n` bits of a word and keeps the rest (R100). -/
theorem and_maskFromBits_bit (v : Word) {n : Nat} (hn : n ≤ 128) (k : Nat) :
    (v &&& maskFromBits n).getLsbD k = (decide (128 - n ≤ k) && v.getLsbD k) := by
  rcases Nat.lt_or_ge k 128 with hk | hk
  · rw [BitVec.getLsbD_and, maskFromBits_bit hn hk, Bool.and_comm]
  · rw [BitVec.getLsbD_of_ge _ _ hk, BitVec.getLsbD_of_ge _ _ hk, Bool.and_false]

/-- As a number, a word under the mask of `n` is rounded down to a multiple of `2 ^ (128 - n)` (R172). -/
theorem and_maskFromBits_toNat (v : Word) {n : Nat} (hn : n ≤ 128) :
    (v &&& maskFromBits n).toNat = 2 ^ (128 - n) * (v.toNat / 2 ^ (128 - n)) := by
  refine Nat.eq_of_testBit_eq fun k => ?_
  rw [BitVec.testBit_toNat, and_maskFromBits_bit v hn, Nat.testBit_two_pow_mul, Nat.testBit_div_two_pow]
  by_cases hk : 128 - n ≤ k
  · rw [Nat.sub_add_cancel hk, BitVec.testBit_toNat]
  · rw [decide_eq_false hk, Bool.false_and, Bool.false_and]

theorem blockContains_iff {x : Block} {addr : Word} : blockContains x addr = true ↔ addr &&& x.mask = x.pfx :=
  beq_iff_eq

/-- A valid block holds the addresses from its first to its last: rounding down to a multiple of the size gives the prefix
exactly there (R175). -/
theorem Block.Inv.contains_iff {x : Block} (hx : x.Inv) (addr : Word) :
    blockContains x addr = true ↔ x.pfx.toNat ≤ addr.toNat ∧ addr.toNat ≤ (blockLast x).toNat := by
  obtain ⟨n, hn, hm⟩ := hx.2
  obtain ⟨q, hq⟩ := hx.dvd_pfx hn hm
  have hpos : 0 < 2 ^ (128 - n) := Nat.two_pow_pos _
  rw [blockContains_iff, ← BitVec.toNat_inj, hm, and_maskFromBits_toNat addr hn, hx.blockLast_toNat hn hm, hq,
    Nat.mul_right_inj hpos.ne', Nat.div_eq_iff hpos, Nat.mul_comm q, Nat.add_sub_assoc hpos]

/-- The first address of a valid block is not after its last. -/
theorem Block.Inv.pfx_le_blockLast {x : Block} (hx : x.Inv) : x.pfx.toNat ≤ (blockLast x).toNat := by
  obtain ⟨n, hn, hm⟩ := hx.2
  rw [hx.blockLast_toNat hn hm]
  exact Nat.le_add_right _ _

end Sys2Proof.Machine

namespace Sys2Proof.Proofs

open Sys2Proof Sys2Proof.Machine

/-- Settles O50: containment is the range of `Block.Inv.contains_iff`, at any address, at its two ends and just outside
them. -/
theorem containmentIsTheRange : Obligations.ContainmentIsTheRange := by
  intro x hx
  have hrange := hx.contains_iff
  have hle := hx.pfx_le_blockLast
  refine ⟨hrange, ?first, ?last, fun hpos => ?before, fun hmax => ?after⟩
  case first => exact (hrange x.pfx).mpr ⟨le_rfl, hle⟩
  case last => exact (hrange (blockLast x)).mpr ⟨hle, le_rfl⟩
  case before =>
    have hsub : (x.pfx - 1).toNat = x.pfx.toNat - 1 := by bv_omega
    refine Bool.eq_false_iff.mpr fun h => ?_
    have hstart := ((hrange (x.pfx - 1)).mp h).1
    omega
  case after =>
    have hadd : (blockLast x + 1).toNat = (blockLast x).toNat + 1 :=
      BitVec.toNat_add_of_lt (Nat.add_lt_of_lt_sub hmax)
    refine Bool.eq_false_iff.mpr fun h => ?_
    have hend := ((hrange (blockLast x + 1)).mp h).2
    exact Nat.not_succ_le_self _ (hadd ▸ hend)

end Sys2Proof.Proofs

namespace Sys2Proof.Machine

/-! ## BCONT by case (44_compare_contain.md R173) -/

section
variable {s : State} {ba : Fin 4} {rs1 : Fin 8} {addr : Word}

/-- Past the check of its address BCONT is a check of its block. -/
theorem effectOf_bcont_written (h : s.a[rs1] = some addr) :
    effectOf (.bcont ba rs1) s = withB s ba fun x => .done ((s.setC (blockContains x addr)).setErr .none) :=
  withA_written h _

theorem exec_bcont_valid {x : Block} (hf : s.status.fault = false) (h : s.a[rs1] = some addr) (hx : s.b[ba] = some x) :
    exec (.bcont ba rs1) s = .next ((s.setC (blockContains x addr)).setErr .none) :=
  exec_done hf ((effectOf_bcont_written h).trans (withB_valid hx _))

end

end Sys2Proof.Machine

namespace Sys2Proof.Proofs

open Sys2Proof Sys2Proof.Machine

/-- Settles O49: BCONT checks its address, then its block, and then writes `blockContains`, which is the test of R172. -/
theorem bcontTestsContainment : Obligations.BcontTestsContainment := by
  intro s ba rs1 hf
  refine ⟨hasEncoding_of_mem (by decide) rfl, fun addr x ha hx => ?_, fun ha => ?_, fun ha hb => ?_⟩
  · exact exec_bcont_valid hf ha hx
  · exact exec_raise .unwrittenRead hf (withA_unwritten ha _)
  · obtain ⟨addr, ha⟩ := Option.ne_none_iff_exists'.mp ha
    exact exec_withB_invalid (effectOf_bcont_written ha) hf hb

end Sys2Proof.Proofs

namespace Sys2Proof.Machine

/-! ## The value of a pair, and `dec` against `inc` (00_scope.md R11; 45_iterator.md R180, R181) -/

/-- The 128 bits of a pair are its value without the overflow (R11). -/
theorem Pair.ofNat_val (p : Pair) : BitVec.ofNat 128 p.val = p.v := by
  obtain ⟨v, o⟩ := p
  cases o <;> simp [Pair.val, BitVec.ofNat_add]

theorem Pair.dec_eq_none_iff {p : Pair} : p.dec = none ↔ p.val = 0 := by
  refine ⟨Pair.val_eq_zero_of_dec, fun h => Option.eq_none_iff_forall_ne_some.mpr fun c hc => ?_⟩
  have := Pair.dec_val hc
  omega

theorem Pair.exists_dec {p : Pair} (h : 1 ≤ p.val) : ∃ c, p.dec = some c ∧ c.val = p.val - 1 := by
  obtain ⟨c, hc⟩ := Option.ne_none_iff_exists'.mp fun hnone => Nat.ne_of_gt h (Pair.dec_eq_none_iff.mp hnone)
  exact ⟨c, hc, Nat.eq_sub_of_add_eq (Pair.dec_val hc)⟩

/-- `inc` undoes `dec`, for an end above `2^128` too (log entry 7). -/
theorem Pair.inc_of_dec {p c : Pair} (h : p.dec = some c) : c.inc = p := by
  obtain ⟨v, o⟩ := p
  unfold Pair.dec at h
  split at h
  · next hv =>
    obtain rfl : v = 0 := hv
    cases o with
    | true =>
      cases h
      rfl
    | false => cases h
  · next hv =>
    cases h
    have hne : v - 1 ≠ BitVec.allOnes 128 := fun hmax => hv (by rw [← sub_add_cancel v 1, hmax]; rfl)
    rw [Pair.inc, if_neg hne, BitVec.sub_add_cancel]

/-! ## One step of an iterator with its invariant (45_iterator.md R184, R187) -/

theorem iterStep_eq_some_iff {x : Iter} {addr : Word} {c : Pair} :
    iterStep x = some (addr, c) ↔ x.cur ≠ x.limit ∧ x.origin + x.cur.v = addr ∧ x.cur.inc = c := by
  by_cases h : x.cur = x.limit <;> simp [iterStep, h]

/-- A cursor that is not the end is before it (10_state.md R28). -/
theorem Iter.Inv.cur_lt {x : Iter} (hx : x.Inv) (h : x.cur ≠ x.limit) : x.cur.val < x.limit.val :=
  lt_of_le_of_ne hx.1 fun hval => h (Pair.val_inj hval)

/-- Before the end the cursor has no overflow, since the end is at most `2^128` (R28). -/
theorem Iter.Inv.cur_o {x : Iter} (hx : x.Inv) (h : x.cur ≠ x.limit) : x.cur.o = false := by
  have hlt := hx.cur_lt h
  obtain ⟨-, -, hmax, -⟩ := hx
  refine Bool.eq_false_iff.mpr fun ho => ?_
  have hval : x.cur.val = x.cur.v.toNat + 2 ^ 128 := by rw [Pair.val, if_pos ho]
  omega

/-- Before the end the address is the exact sum of the origin and the cursor: `add128` does not wrap (R187). -/
theorem Iter.Inv.add_cur_toNat {x : Iter} (hx : x.Inv) (h : x.cur ≠ x.limit) :
    (x.origin + x.cur.v).toNat = x.origin.toNat + x.cur.val ∧ x.origin.toNat + x.cur.val < 2 ^ 128 := by
  have hval : x.cur.val = x.cur.v.toNat := by simp [Pair.val, hx.cur_o h]
  have hlt := hx.cur_lt h
  obtain ⟨-, -, -, hend⟩ := hx
  rw [hval] at hlt ⊢
  have hsum : x.origin.toNat + x.cur.v.toNat < 2 ^ 128 := by omega
  exact ⟨BitVec.toNat_add_of_lt hsum, hsum⟩

/-! ## ITINIT, ITNEXT and ITLAST by case (45_iterator.md R183, R185, R186) -/

section
variable {s : State} {i : Instr} {rd : Fin 8} {j : Fin 2} {x : Iter}

/-- A command outside the faulted state whose case the spec refuses. -/
theorem exec_refuse {r : Refusal} (hf : s.status.fault = false) (he : effectOf i s = .refuse r) :
    exec i s = .refused r := by
  rw [exec_eq_command, he, command_refuse hf]

/-- A command whose first check is of an iterator register faults where that is invalid (10_state.md R29). -/
theorem exec_withI_invalid {k : Iter → Effect} (hi : effectOf i s = withI s j k) (hf : s.status.fault = false)
    (h : s.it[j] = none) : exec i s = .next (recordFault s 5 (encode i)) :=
  exec_raise .invalidIter hf (hi.trans (withI_invalid h _))

theorem exec_itinit_valid {ba : Fin 4} {b : Block} (hf : s.status.fault = false) (h : s.b[ba] = some b) :
    exec (.itinit j ba) s =
      .next ((s.writeI j { origin := b.pfx, cur := { v := 0, o := false }, limit := endPair b }).setErr .none) :=
  exec_done hf (withB_valid h _)

/-- After `ITINIT` the iterator register holds the start of the iteration (R183). -/
theorem exec_itinit_starts {t : State} {ba : Fin 4} {b : Block} (hf : s.status.fault = false) (h : s.b[ba] = some b)
    (ht : exec (.itinit j ba) s = .next t) : t.status.fault = false ∧
      t.it[j] = some { origin := b.pfx, cur := { v := 0, o := false }, limit := endPair b } := by
  cases (exec_itinit_valid hf h).symm.trans ht
  exact ⟨hf, file_get_set_same _ _ _⟩

theorem deliverNext_of_ne (h : x.cur ≠ x.limit) : deliverNext rd j x s =
    .done ((((s.writeA rd (x.origin + x.cur.v)).writeI j { x with cur := x.cur.inc }).setV true).setErr .none) :=
  ((deliverNext_cases rd j x s).resolve_left fun hend => h hend.1).2

theorem deliverNext_of_eq (h : x.cur = x.limit) : deliverNext rd j x s = .done ((s.setV false).setErr .none) :=
  ((deliverNext_cases rd j x s).resolve_right fun hne => hne.1 h).2

/-- `ITNEXT` of an iterator that is not exhausted (R185). -/
theorem exec_itnext_element (hf : s.status.fault = false) (h : s.it[j] = some x) (hne : x.cur ≠ x.limit) :
    exec (.itnext rd j) s =
      .next ((((s.writeA rd (x.origin + x.cur.v)).writeI j { x with cur := x.cur.inc }).setV true).setErr .none) :=
  exec_done hf ((withI_valid h _).trans (deliverNext_of_ne hne))

/-- `ITNEXT` of an exhausted iterator (R185). -/
theorem exec_itnext_exhausted (hf : s.status.fault = false) (h : s.it[j] = some x) (hend : x.cur = x.limit) :
    exec (.itnext rd j) s = .next ((s.setV false).setErr .none) :=
  exec_done hf ((withI_valid h _).trans (deliverNext_of_eq hend))

/-- `ITLAST` is one `next()` call from the predecessor of the end, which leaves the cursor at the end (R186). -/
theorem effectOf_itlast_of_dec {c : Pair} (h : s.it[j] = some x) (hc : x.limit.dec = some c) :
    effectOf (.itlast rd j) s =
      .done ((((s.writeA rd (x.origin + c.v)).writeI j { x with cur := x.limit }).setV true).setErr .none) := by
  have hnext := deliverNext_of_ne (s := s.writeI j { x with cur := c }) (rd := rd) (j := j) (x := { x with cur := c })
    (Pair.dec_ne hc)
  rw [writeI_writeA_writeI, Pair.inc_of_dec hc] at hnext
  simp only [effectOf, withI_valid h, hc, hnext]

/-- `ITLAST` of an iterator whose end counts at least one address (R186). -/
theorem exec_itlast_of_pos (hf : s.status.fault = false) (h : s.it[j] = some x) (hpos : 1 ≤ x.limit.val) :
    exec (.itlast rd j) s =
      .next ((((s.writeA rd (x.origin + BitVec.ofNat 128 (x.limit.val - 1))).writeI j
        { x with cur := x.limit }).setV true).setErr .none) := by
  obtain ⟨c, hc, hval⟩ := Pair.exists_dec hpos
  rw [← hval, Pair.ofNat_val]
  exact exec_done hf (effectOf_itlast_of_dec h hc)

/-- `ITLAST` of an iterator whose end is `(0, false)` (R181; log entry 6). -/
theorem effectOf_itlast_of_zero (h : s.it[j] = some x) (hzero : x.limit.val = 0) :
    effectOf (.itlast rd j) s = .refuse .decOfZero := by
  simp only [effectOf, withI_valid h, Pair.dec_eq_none_iff.mpr hzero]

/-- Where `origin + val(end)` is at most `2^128`, `ITLAST` writes the address before it, as an exact sum (R187). -/
theorem exec_itlast_exact (hf : s.status.fault = false) (h : s.it[j] = some x) (hpos : 1 ≤ x.limit.val)
    (hend : x.origin.toNat + x.limit.val ≤ 2 ^ 128) :
    ∃ t v, exec (.itlast rd j) s = .next t ∧ t.a[rd] = some v ∧ v.toNat = x.origin.toNat + (x.limit.val - 1) := by
  refine ⟨_, _, exec_itlast_of_pos hf h hpos, file_get_set_same _ _ _, ?_⟩
  rw [BitVec.toNat_add, BitVec.toNat_ofNat, Nat.add_mod_mod, Nat.mod_eq_of_lt (by omega)]

/-! ## ITNEXT in a row (45_iterator.md R188) -/

/-- One more `ITNEXT` that yields a value puts it in front of what the rest yield. -/
theorem driveNext_succ {t : State} {v : Word} (k : Nat) (h : exec (.itnext rd j) s = .next t) (hv : t.status.v = true)
    (ha : t.a[rd] = some v) : driveNext rd j (k + 1) s = (driveNext rd j k t).map fun r => (v :: r.1, r.2) := by
  simp only [driveNext, h, hv, ha]

/-- From an iterator with its invariant, `ITNEXT` in a row, as often as there are addresses left, yields the addresses from
`origin + val(cur)` up, one by one, and advances the cursor by their number (R187, R188). -/
theorem driveNext_enumerates (k : Nat) (hf : s.status.fault = false) (h : s.it[j] = some x) (hx : x.Inv)
    (hk : x.cur.val + k ≤ x.limit.val) :
    ∃ vs u c, driveNext rd j k s = some (vs, u) ∧ vs.map BitVec.toNat = List.range' (x.origin.toNat + x.cur.val) k ∧
      u.status.fault = false ∧ u.it[j] = some { x with cur := c } ∧ c.val = x.cur.val + k := by
  induction k generalizing s x with
  | zero => exact ⟨[], s, x.cur, rfl, rfl, hf, h, rfl⟩
  | succ k ih =>
    have hlt : x.cur.val < x.limit.val := by omega
    have hne : x.cur ≠ x.limit := fun heq => hlt.ne (congrArg Pair.val heq)
    obtain ⟨haddr, hbound⟩ := hx.add_cur_toNat hne
    have hinc : x.cur.inc.val = x.cur.val + 1 := Pair.inc_val (by omega)
    obtain ⟨vs, u, c, hdrive, hvs, hfu, hit, hc⟩ := ih
      (s := (((s.writeA rd (x.origin + x.cur.v)).writeI j { x with cur := x.cur.inc }).setV true).setErr .none)
      (x := { x with cur := x.cur.inc }) hf (file_get_set_same _ _ _) (hx.advance hlt)
      (by simp only [hinc]; omega)
    refine ⟨(x.origin + x.cur.v) :: vs, u, c, ?_, ?_, hfu, hit, ?_⟩
    · rw [driveNext_succ k (exec_itnext_element hf h hne) rfl (file_get_set_same _ _ _), hdrive, Option.map_some]
    · rw [List.map_cons, hvs, haddr, hinc, List.range'_succ, Nat.add_assoc]
    · rw [hc, hinc]
      omega

end

end Sys2Proof.Machine

namespace Sys2Proof.Proofs

open Sys2Proof Sys2Proof.Machine

/-- Settles O52: ITINIT writes `endPair` of the block, whose value is `endPair_val`. -/
theorem itinitStartsIterator : Obligations.ItinitStartsIterator := by
  intro s j ba hf
  refine ⟨hasEncoding_of_mem (by decide) rfl, fun x n h hn hm => ?_, exec_withB_invalid rfl hf⟩
  exact ⟨endPair x, endPair_val hn hm, exec_itinit_valid hf h⟩

/-- Settles O54: ITLAST is one `next()` call from `dec` of the end (`exec_itlast_of_pos`), and `inc` of that is the end. -/
theorem itlastJumpsToLast : Obligations.ItlastJumpsToLast := by
  intro s rd j hf
  exact ⟨hasEncoding_of_mem (by decide) rfl, fun _ h hpos => exec_itlast_of_pos hf h hpos, exec_withI_invalid rfl hf⟩

/-- Settles O56: a step is taken only before the end (`iterStep_eq_some_iff`), where the sum is exact
(`Iter.Inv.add_cur_toNat`). -/
theorem iteratorAddressesNeverWrap : Obligations.IteratorAddressesNeverWrap := by
  intro x addr c hx hstep
  obtain ⟨hne, rfl, -⟩ := iterStep_eq_some_iff.mp hstep
  exact ⟨hx.cur_o hne, hx.add_cur_toNat hne⟩

/-- Settles O57: ITINIT starts an iterator with its invariant whose end counts the block's addresses, and
`driveNext_enumerates`, by induction on the number of ITNEXT, says what these yield and where they leave the cursor. -/
theorem iteratorEnumeratesTheBlock : Obligations.IteratorEnumeratesTheBlock := by
  intro s t rd re j ba x n hf hb hx hn hm hinit k hk
  obtain ⟨hft, hstart⟩ := exec_itinit_starts hf hb hinit
  have hcount := endPair_val hn hm
  have hzero : Pair.val { v := 0, o := false } = 0 := rfl
  obtain ⟨vs, u, c, hdrive, hvs, hfu, hit, hc⟩ := driveNext_enumerates (rd := rd) k hft hstart hx.start_inv
    (by simpa only [hzero, hcount, Nat.zero_add] using hk)
  simp only [hzero, Nat.add_zero, Nat.zero_add] at hvs hc
  have hlen : vs.length = k := by simpa using congrArg List.length hvs
  refine ⟨vs, u, hdrive, hlen, fun m h => ?element, fun hall => ?exhausted, ?last⟩
  case element =>
    have hval : vs[m].toNat = x.pfx.toNat + m := by
      have hmap : (vs.map BitVec.toNat)[m]'(by simpa using h) = vs[m].toNat := List.getElem_map _
      simp only [← hmap, hvs, List.getElem_range', Nat.one_mul]
    refine ⟨hval, (hx.contains_iff _).mpr ?_⟩
    rw [hval, hx.blockLast_toNat hn hm]
    omega
  case exhausted =>
    exact exec_itnext_exhausted hfu hit (Pair.val_inj (hc.trans (hall.trans hcount.symm)))
  case last =>
    obtain ⟨-, hpos, -, hend⟩ := hx.start_inv
    rw [← hcount]
    exact exec_itlast_exact hfu hit hpos hend

/-- Settles O51, by `Pair.inc_val` and `Pair.exists_dec`. -/
theorem pairArithmeticCounts : Obligations.PairArithmeticCounts :=
  ⟨fun _ => Pair.inc_val, fun _ => Pair.exists_dec⟩

/-- Settles O53: ITNEXT is one `next()` call, of an iterator that is exhausted or is not. -/
theorem itnextYieldsOrEnds : Obligations.ItnextYieldsOrEnds := by
  intro s rd j hf
  refine ⟨hasEncoding_of_mem (by decide) rfl, fun x h hne => ?_, fun x h hend => ?_, exec_withI_invalid rfl hf⟩
  · exact ⟨x.cur.inc, Pair.inc_val, exec_itnext_element hf h hne⟩
  · exact exec_itnext_exhausted hf h hend

/-- Settles O55: `dec` has no value exactly at 0 (`Pair.dec_eq_none_iff`), and ITLAST then refuses. -/
theorem itlastRefusesZeroEnd : Obligations.ItlastRefusesZeroEnd :=
  ⟨rfl, fun _ _ _ _ hf h hzero => exec_refuse hf (effectOf_itlast_of_zero h hzero)⟩

end Sys2Proof.Proofs

namespace Sys2Proof.Machine

/-! ## In the faulted state (60_exceptions.md R209, R210) -/

section
variable {s t : State}

/-- In the faulted state every operation but reset takes effect and keeps the fault, its record and every block and iterator
register: commands are ignored, and a port read records no second fault. -/
theorem portStep_faulted {op : PortOp} (hf : s.status.fault = true) (hop : op ≠ .reset) :
    ∃ t, portStep op s = .next t ∧ t.status = s.status ∧ t.fcause = s.fcause ∧ t.fcmd = s.fcmd ∧ t.b = s.b ∧
      t.it = s.it := by
  cases op with
  | cmd w => exact ⟨s, portCmd_faulted hf w, rfl, rfl, rfl, rfl, rfl⟩
  | read i =>
    cases hi : s.a[i] with
    | some v => exact ⟨_, congrArg Host.Outcome.next (portRead_written hi), rfl, rfl, rfl, rfl, rfl⟩
    | none => exact ⟨_, congrArg Host.Outcome.next (portRead_unwritten_faulted hi hf), rfl, rfl, rfl, rfl, rfl⟩
  | write | readStatus | readFcause | readFcmd => exact ⟨_, rfl, rfl, rfl, rfl, rfl, rfl⟩
  | reset => exact absurd rfl hop

/-- A step in the faulted state, with no reset issued: what `portStep_faulted` keeps, and still no reset is issued. -/
theorem step_faulted (hf : s.status.fault = true) (hreset : .reset ∉ s.port) (h : step s = .next t) :
    t.status = s.status ∧ t.fcause = s.fcause ∧ t.fcmd = s.fcmd ∧ t.b = s.b ∧ t.it = s.it ∧ .reset ∉ t.port := by
  cases hp : s.port with
  | nil =>
    cases (step_idle hp).symm.trans h
    exact ⟨rfl, rfl, rfl, rfl, rfl, hreset⟩
  | cons op rest =>
    rw [step_oldest hp] at h
    rw [hp, List.mem_cons, not_or] at hreset
    obtain ⟨hop, hrest⟩ := hreset
    obtain ⟨u, hu, hst, hcause, hcmd, hb, hit⟩ := portStep_faulted (s := { s with port := rest }) hf (Ne.symm hop)
    cases hu.symm.trans h
    exact ⟨hst, hcause, hcmd, hb, hit, by rwa [portStep_port hu]⟩

/-- A run that answers a next state is a step that does and a run from there. -/
theorem run_succ_next {k : Nat} (h : core.run (k + 1) s = .next t) :
    ∃ u, step s = .next u ∧ core.run k u = .next t := by
  cases hu : step s with
  | next u =>
    refine ⟨u, rfl, ?_⟩
    simpa only [Host.Core.run, core, hu] using h
  | fault r => cases r
  | refused r => simp [Host.Core.run, core, hu] at h

end

/-! ## The checks of a command in the order of 60_exceptions.md R208 -/

section
variable {s : State} {w : Cmd} {i : Instr}

/-- The fault of a decoded word leaves the state of R206, with the code of R207 and the word itself. -/
theorem portCmd_raise (code : FaultCode) (hf : s.status.fault = false) (hd : decode w = .ok i)
    (he : effectOf i s = .raise code) : portCmd w s = .next (recordFault s (faultCode code).toNat w) := by
  obtain ⟨-, hw⟩ := Proofs.encodeOfDecode w i hd
  rw [portCmd_ok hf hd, exec_raise code hf he, hw]

/-- Value registers are checked before anything else of a command. -/
theorem effectOf_unwritten {r : Fin 8} (hr : r ∈ sourceRegs i) (h : s.a[r] = none) :
    effectOf i s = .raise .unwrittenRead := by
  cases i with
  | mkmaskr | masklen | oct2u | u2oct | grp2u | u2grp | cidrb | bcont =>
    obtain rfl := List.mem_singleton.mp hr
    exact withA_unwritten h _
  | cidrbr ba rs1 rs2 | cidrm ba rs1 rs2 =>
    have hsources : s.a[rs1] = none ∨ s.a[rs2] = none := by
      rcases List.mem_pair.mp hr with rfl | rfl
      · exact .inl h
      · exact .inr h
    exact withA_withA_unwritten hsources _
  | _ => exact absurd hr List.not_mem_nil

/-- Block registers are checked where the value registers passed. -/
theorem effectOf_invalidBlock {r : Fin 4} (hregs : ∀ r ∈ sourceRegs i, s.a[r] ≠ none) (hr : r ∈ sourceBlocks i)
    (h : s.b[r] = none) : effectOf i s = .raise .invalidBlock := by
  cases i with
  | bpfx | bmask | blen | bfirst | blast | bsize | itinit =>
    obtain rfl := List.mem_singleton.mp hr
    exact withB_invalid h _
  | bcmp ba bb =>
    have hsources : s.b[ba] = none ∨ s.b[bb] = none := by
      rcases List.mem_pair.mp hr with rfl | rfl
      · exact .inl h
      · exact .inr h
    exact withB_withB_invalid hsources _
  | bcont ba rs1 =>
    obtain rfl := List.mem_singleton.mp hr
    obtain ⟨addr, haddr⟩ := Option.ne_none_iff_exists'.mp (hregs rs1 List.mem_cons_self)
    exact (withA_written haddr _).trans (withB_invalid h _)
  | _ => exact absurd hr List.not_mem_nil

/-- The commands that read an iterator register read nothing else. -/
theorem effectOf_invalidIter {j : Fin 2} (hj : j ∈ sourceIters i) (h : s.it[j] = none) :
    effectOf i s = .raise .invalidIter := by
  cases i with
  | itnext | itlast =>
    obtain rfl := List.mem_singleton.mp hj
    exact withI_invalid h _
  | _ => exact absurd hj List.not_mem_nil

/-- A length above 128 breaks the contract of MKMASK and MKMASKR (41_mask.md R102, R103). -/
theorem effectOf_contract (h : BreaksContract i s) : effectOf i s = .raise .contract := by
  rcases h with ⟨rd, imm8, rfl, hb⟩ | ⟨rd, rs1, v, rfl, hv, hb⟩
  · exact makeMask_of_gt hb
  · exact (effectOf_mkmaskr_written hv).trans (makeMask_of_gt hb)

end

section
variable {s : State} {code : FaultCode}

theorem withA_ne_raise {r : Fin 8} {k : Word → Effect} (hr : s.a[r] ≠ none)
    (hk : ∀ v, s.a[r] = some v → k v ≠ .raise code) : withA s r k ≠ .raise code := by
  obtain ⟨v, hv⟩ := Option.ne_none_iff_exists'.mp hr
  rw [withA_written hv]
  exact hk v hv

theorem withB_ne_raise {r : Fin 4} {k : Block → Effect} (hr : s.b[r] ≠ none) (hk : ∀ x, k x ≠ .raise code) :
    withB s r k ≠ .raise code := by
  obtain ⟨x, hx⟩ := Option.ne_none_iff_exists'.mp hr
  rw [withB_valid hx]
  exact hk x

theorem withI_ne_raise {j : Fin 2} {k : Iter → Effect} (hj : s.it[j] ≠ none) (hk : ∀ x, k x ≠ .raise code) :
    withI s j k ≠ .raise code := by
  obtain ⟨x, hx⟩ := Option.ne_none_iff_exists'.mp hj
  rw [withI_valid hx]
  exact hk x

theorem makeMask_ne_raise (rd : Fin 8) {b : Nat} (hb : ¬ 128 < b) : makeMask rd b s ≠ .raise code := by
  rw [makeMask_of_le (Nat.le_of_not_lt hb)]
  exact Effect.noConfusion

theorem buildFromBits_ne_raise (ba : Fin 4) (p : Word) (b : Nat) : buildFromBits ba p b s ≠ .raise code := by
  rcases buildFromBits_cases ba p b s with ⟨-, he⟩ | ⟨-, he⟩ <;> simp [he]

theorem deliverNext_ne_raise (rd : Fin 8) (j : Fin 2) (x : Iter) : deliverNext rd j x s ≠ .raise code := by
  rcases deliverNext_cases rd j x s with ⟨-, he⟩ | ⟨-, he⟩ <;> simp [he]

/-- A command whose checks all pass raises no fault (R208). -/
theorem effectOf_ne_raise {i : Instr} (hregs : ∀ r ∈ sourceRegs i, s.a[r] ≠ none)
    (hblocks : ∀ r ∈ sourceBlocks i, s.b[r] ≠ none) (hiters : ∀ j ∈ sourceIters i, s.it[j] ≠ none)
    (hcontract : ¬ BreaksContract i s) : effectOf i s ≠ .raise code := by
  cases i with
  | mkmask rd imm8 => exact makeMask_ne_raise rd fun hb => hcontract (.inl ⟨rd, imm8, rfl, hb⟩)
  | mkmaskr rd rs1 =>
    refine withA_ne_raise (hregs rs1 List.mem_cons_self) fun v hv => ?_
    exact makeMask_ne_raise rd fun hb => hcontract (.inr ⟨rd, rs1, v, rfl, hv, hb⟩)
  | masklen rd rs1 =>
    refine withA_ne_raise (hregs rs1 List.mem_cons_self) fun m _ => ?_
    cases bitsFromMask m <;> exact Effect.noConfusion
  | oct2u | u2oct | grp2u | u2grp =>
    exact withA_ne_raise (hregs _ List.mem_cons_self) fun _ _ => Effect.noConfusion
  | cidrb ba rs1 imm8 =>
    exact withA_ne_raise (hregs rs1 List.mem_cons_self) fun p _ => buildFromBits_ne_raise ba p imm8
  | cidrbr ba rs1 rs2 =>
    refine withA_ne_raise (hregs rs1 List.mem_cons_self) fun p _ => ?_
    exact withA_ne_raise (hregs rs2 (List.mem_cons_of_mem _ List.mem_cons_self)) fun b _ => buildFromBits_ne_raise ba p b.toNat
  | cidrm ba rs1 rs2 =>
    refine withA_ne_raise (hregs rs1 List.mem_cons_self) fun p _ => ?_
    refine withA_ne_raise (hregs rs2 (List.mem_cons_of_mem _ List.mem_cons_self)) fun m _ => ?_
    cases bitsFromMask m <;> exact Effect.noConfusion
  | bpfx | bmask | blen | bfirst | blast | bsize | itinit =>
    exact withB_ne_raise (hblocks _ List.mem_cons_self) fun _ => Effect.noConfusion
  | bcmp ba bb =>
    refine withB_ne_raise (hblocks ba List.mem_cons_self) fun _ => ?_
    exact withB_ne_raise (hblocks bb (List.mem_cons_of_mem _ List.mem_cons_self)) fun _ => Effect.noConfusion
  | bcont ba rs1 =>
    refine withA_ne_raise (hregs rs1 List.mem_cons_self) fun _ _ => ?_
    exact withB_ne_raise (hblocks ba List.mem_cons_self) fun _ => Effect.noConfusion
  | itnext rd j => exact withI_ne_raise (hiters j List.mem_cons_self) fun x => deliverNext_ne_raise rd j x
  | itlast rd j =>
    refine withI_ne_raise (hiters j List.mem_cons_self) fun x => ?_
    cases x.limit.dec with
    | none => exact Effect.noConfusion
    | some c => exact deliverNext_ne_raise rd j _

end

/-! ## What a completed command reports (60_exceptions.md R202, R203) -/

section
variable {s t : State} {i : Instr}

/-- A command that reports an error changes no register (R202). -/
theorem Completes.regs_of_err (h : Completes s i t) (herr : t.status.err ≠ .none) :
    t.a = s.a ∧ t.b = s.b ∧ t.it = s.it := by
  cases h with
  | rejected => exact ⟨rfl, rfl, rfl⟩
  | _ => exact absurd rfl herr

/-- Only a construction reports an error (R202). -/
theorem Completes.err_of_not_construction (h : Completes s i t) (hi : destBlock i = none) : t.status.err = .none := by
  cases h with
  | rejected hdest => cases hi.symm.trans hdest
  | _ => rfl

theorem reportsBitsRange_cidrb {ba : Fin 4} {rs1 : Fin 8} {imm8 : Nat} :
    ReportsBitsRange (.cidrb ba rs1 imm8) s ↔ 128 < imm8 := by
  simp [ReportsBitsRange]

theorem reportsBitsRange_cidrbr {ba : Fin 4} {rs1 rs2 : Fin 8} {b : Word} (h : s.a[rs2] = some b) :
    ReportsBitsRange (.cidrbr ba rs1 rs2) s ↔ 128 < b.toNat := by
  simp [ReportsBitsRange, h, -Fin.getElem_fin]

theorem reportsBadMask_cidrm {ba : Fin 4} {rs1 rs2 : Fin 8} {m : Word} (h : s.a[rs2] = some m) :
    ReportsBadMask (.cidrm ba rs1 rs2) s ↔ ¬ ContiguousMask m := by
  simp [ReportsBadMask, h, -Fin.getElem_fin]

/-- A command that builds from a length reports IncorrectBitsRange exactly above 128 (R141, R142). -/
theorem buildFromBits_err {ba : Fin 4} {p : Word} {b : Nat} (h : buildFromBits ba p b s = .done t) :
    (t.status.err = .incorrectBitsRange ↔ 128 < b) ∧ t.status.err ≠ .incorrectMask := by
  rcases buildFromBits_cases ba p b s with ⟨hb, he⟩ | ⟨hb, he⟩ <;> cases he.symm.trans h
  · exact ⟨iff_of_true rfl hb, ErrorKind.noConfusion⟩
  · exact ⟨iff_of_false ErrorKind.noConfusion (Nat.not_lt.mpr hb), ErrorKind.noConfusion⟩

/-- Each error is reported exactly where R202 says. -/
theorem err_iff_of_effectOf (h : effectOf i s = .done t) :
    (t.status.err = .incorrectBitsRange ↔ ReportsBitsRange i s) ∧ (t.status.err = .incorrectMask ↔ ReportsBadMask i s) := by
  have hother := (completes_of_effectOf h).err_of_not_construction
  cases i with
  | cidrb ba rs1 imm8 =>
    obtain ⟨p, -, h⟩ := withA_done h
    obtain ⟨hrange, hmask⟩ := buildFromBits_err h
    exact ⟨hrange.trans reportsBitsRange_cidrb.symm, iff_of_false hmask (by simp [ReportsBadMask])⟩
  | cidrbr ba rs1 rs2 =>
    obtain ⟨p, -, h⟩ := withA_done h
    obtain ⟨b, hb, h⟩ := withA_done h
    obtain ⟨hrange, hmask⟩ := buildFromBits_err h
    exact ⟨hrange.trans (reportsBitsRange_cidrbr hb).symm, iff_of_false hmask (by simp [ReportsBadMask])⟩
  | cidrm ba rs1 rs2 =>
    obtain ⟨p, -, h⟩ := withA_done h
    obtain ⟨m, hm, h⟩ := withA_done h
    rw [reportsBadMask_cidrm hm, ← bitsFromMask_eq_none_iff]
    cases hbits : bitsFromMask m <;> simp only [hbits] at h <;> cases h <;> simp [ReportsBitsRange]
  | _ => simp [hother rfl, ReportsBitsRange, ReportsBadMask]

end

end Sys2Proof.Machine

namespace Sys2Proof.Proofs

open Sys2Proof Sys2Proof.Machine

/-- Settles O13: what every operation but reset keeps is `portStep_faulted`; `State.reset` has no fault. -/
theorem faultedStateOnlyResetLeaves : Obligations.FaultedStateOnlyResetLeaves := by
  intro s hf
  refine ⟨fun w => portCmd_faulted hf w, fun _ _ => rfl, fun i v hv => ?read, fun op hop => ?kept, portReset s, rfl, rfl⟩
  case read => exact congrArg Host.Outcome.next (portRead_written hv)
  case kept =>
    obtain ⟨t, ht, hst, hcause, hcmd, -⟩ := portStep_faulted hf hop
    exact ⟨t, ht, hst, hcause, hcmd⟩

/-- Settles O14, by induction on the number of steps: `step_faulted` keeps the fault and adds no reset to the queue. -/
theorem faultIsStickyAlongRuns : Obligations.FaultIsStickyAlongRuns := by
  intro k
  induction k with
  | zero =>
    intro s t _ _ h
    cases h
    exact ⟨rfl, rfl, rfl, rfl, rfl⟩
  | succ k ih =>
    intro s t hf hreset h
    obtain ⟨u, hstep, hrun⟩ := run_succ_next h
    obtain ⟨hst, hcause, hcmd, hb, hit, hreset'⟩ := step_faulted hf hreset hstep
    rw [← hst, ← hcause, ← hcmd, ← hb, ← hit]
    exact ih u t (by rwa [hst]) hreset' hrun

/-- Settles O16: by `portStep_next` FAULT is turned on by a port read of an unwritten register, by a word that does not decode,
or by a command that raises, whose word `encodeOfDecode` gives back. -/
theorem faultEntryIsPrecise : Obligations.FaultEntryIsPrecise := by
  intro s t op hf h ht
  have hno (hsame : t.status.fault = s.status.fault) : False := Bool.false_ne_true (hf.symm.trans (hsame.symm.trans ht))
  rcases portStep_next h with ⟨i, v, -, rfl⟩ | ⟨i, rfl, rfl⟩ | ⟨r, -, rfl⟩ | ⟨-, rfl⟩ | ⟨w, -, hfaulted, -⟩ |
    ⟨w, e, rfl, -, -, rfl⟩ | ⟨w, i, rfl, -, hd, hexec⟩
  · exact (hno rfl).elim
  · cases hi : s.a[i] with
    | some v => exact (hno (by rw [portRead_written hi]; rfl)).elim
    | none =>
      rw [portRead_unwritten hi hf]
      obtain ⟨hmin, hmax⟩ := faultCode_range .portUnwrittenRead
      exact ⟨rfl, rfl, rfl, rfl, hmin, hmax, .inr ⟨i, rfl, rfl, rfl⟩⟩
  · exact (hno rfl).elim
  · cases ht
  · exact absurd (hf.symm.trans hfaulted) Bool.false_ne_true
  · obtain ⟨hmin, hmax⟩ := faultCode_range (decodeFault e)
    exact ⟨rfl, rfl, rfl, rfl, hmin, hmax, .inl ⟨w, rfl, rfl⟩⟩
  · rcases exec_next_completes hexec with ⟨-, rfl⟩ | ⟨-, hc⟩ | ⟨-, code, rfl⟩
    · exact (hno rfl).elim
    · obtain ⟨hfault, -⟩ := hc.keeps
      exact (hno hfault).elim
    · obtain ⟨hmin, hmax⟩ := faultCode_range code
      obtain ⟨-, hw⟩ := encodeOfDecode w i hd
      exact ⟨rfl, rfl, rfl, rfl, hmin, hmax, .inl ⟨w, rfl, hw⟩⟩

/-- Settles O15, one lemma about `effectOf` for each check of R208; where all pass no fault is raised (`effectOf_ne_raise`) and
a completed command keeps the fault record. -/
theorem checksFollowTheOrder : Obligations.ChecksFollowTheOrder := by
  intro s w
  refine ⟨fun hf => portCmd_faulted hf w, fun hf => ⟨portCmd_illegalOpcode hf, portCmd_reservedField hf, fun i hd => ?_⟩⟩
  refine ⟨fun ⟨r, hr, hnone⟩ => ?unwritten, fun hregs => ⟨fun ⟨r, hr, hnone⟩ => ?block, fun hblocks =>
    ⟨fun ⟨j, hj, hnone⟩ => ?iter, fun hiters => ⟨fun hbreaks => ?contract, fun hkeeps =>
      ⟨portCmd_ok hf hd, fun t ht => ?passed⟩⟩⟩⟩⟩
  case unwritten => exact portCmd_raise .unwrittenRead hf hd (effectOf_unwritten hr hnone)
  case block => exact portCmd_raise .invalidBlock hf hd (effectOf_invalidBlock hregs hr hnone)
  case iter => exact portCmd_raise .invalidIter hf hd (effectOf_invalidIter hj hnone)
  case contract => exact portCmd_raise .contract hf hd (effectOf_contract hbreaks)
  case passed =>
    rcases exec_next ht with ⟨hfaulted, -⟩ | ⟨-, he⟩ | ⟨-, code, he, -⟩
    · exact absurd (hf.symm.trans hfaulted) Bool.false_ne_true
    · obtain ⟨hfault, hcause, hcmd, -⟩ := (completes_of_effectOf he).keeps
      exact ⟨hfault.trans hf, hcause, hcmd⟩
    · exact absurd he (effectOf_ne_raise hregs hblocks hiters hkeeps)

/-- Settles O22: the equivalences by `err_iff_of_effectOf`, the rest by the shape of what the command wrote. -/
theorem errorsOnlyFromConstruction : Obligations.ErrorsOnlyFromConstruction := by
  intro s t i hf h ht
  rcases exec_next h with ⟨hfaulted, -⟩ | ⟨-, he⟩ | ⟨-, code, -, rfl⟩
  · exact absurd (hf.symm.trans hfaulted) Bool.false_ne_true
  · have hc := completes_of_effectOf he
    obtain ⟨hrange, hmask⟩ := err_iff_of_effectOf he
    exact ⟨hrange, hmask, hc.err_ne_reserved, hc.regs_of_err⟩
  · cases ht

end Sys2Proof.Proofs

namespace Sys2Proof.Machine

/-! ## A whole run from reset (70_reset_and_hazards.md R236) -/

section
variable {s : State}

/-- A run goes on from the state that its first step answers. -/
theorem run_succ_of_step {u : State} (k : Nat) (h : step s = .next u) : core.run (k + 1) s = core.run k u := by
  simp only [Host.Core.run, core, h]

/-- In a state with the invariant the oldest issued operation takes effect, which keeps the invariant and leaves exactly the
operations behind it (R61). -/
theorem step_takes_oldest {op : PortOp} {rest : List PortOp} (hs : s.Inv) (hport : s.port = op :: rest) :
    ∃ u, step s = .next u ∧ u.Inv ∧ u.port = rest := by
  obtain ⟨u, hu⟩ := step_answers hs
  have hop : portStep op { s with port := rest } = .next u := (step_oldest hport).symm.trans hu
  exact ⟨u, hu, step_inv hs hu, portStep_port hop⟩

/-- From any state with the invariant, as many steps as operations are issued end in a state with the invariant in which none
is left. -/
theorem run_completes {ops : List PortOp} (hs : s.Inv) (hport : s.port = ops) :
    ∃ t, core.run ops.length s = .next t ∧ t.Inv ∧ t.port = [] := by
  induction ops generalizing s with
  | nil => exact ⟨s, rfl, hs, hport⟩
  | cons op rest ih =>
    obtain ⟨u, hstep, hu, hrest⟩ := step_takes_oldest hs hport
    rw [List.length_cons, run_succ_of_step rest.length hstep]
    exact ih hu hrest

end

end Sys2Proof.Machine

namespace Sys2Proof.Proofs

open Sys2Proof Sys2Proof.Machine

/-- Settles O27, by `run_completes`: the state after reset has the invariant, whatever the host has issued. -/
theorem everyRunCompletes : Obligations.EveryRunCompletes :=
  fun _ => run_completes (reset_inv.of_eq rfl rfl rfl rfl rfl) rfl

end Sys2Proof.Proofs
